-- ==== Sys2Proof/Word.lean ====
section
/-! DEFINITION. The three unit sizes of the spec (00_scope.md R14): a byte is 8 bits, a word16 is 16 bits and a
word32 is 32 bits. All values are unsigned. -/

namespace Sys2Proof

/-- 8 bits (R14). -/
abbrev Byte := BitVec 8

/-- A word16: 16 bits (R14). -/
abbrev Half := BitVec 16

/-- A word32: 32 bits (R14). -/
abbrev Word := BitVec 32

end Sys2Proof
end

