-- ==== Sys2Proof/Machine/Bytes.lean ====
section
/-! DEFINITION. Byte strings and their little-endian readings (00_scope.md R14). -/

namespace Sys2Proof.Machine

/-- `le16(v)` (R14). -/
def le16 (v : Half) : List Byte := [v.extractLsb' 0 8, v.extractLsb' 8 8]

/-- `le32(v)` (R14). -/
def le32 (v : Word) : List Byte := [v.extractLsb' 0 8, v.extractLsb' 8 8, v.extractLsb' 16 8, v.extractLsb' 24 8]

/-- `leN(v, n)` (R14): n bytes, least significant first. -/
def leN (v : Nat) : Nat → List Byte
  | 0 => []
  | n + 1 => BitVec.ofNat 8 v :: leN (v / 256) n

/-- `fromLE(s)` (R14). -/
def fromLE : List Byte → Nat
  | [] => 0
  | b :: s => b.toNat + 256 * fromLE s

/-- A two-byte little-endian field, first byte low (R56). -/
def half (lo hi : Byte) : Half := hi ++ lo

/-- `s[i]` (R14), for an i the caller has checked. -/
def byteAt (s : List Byte) (i : Nat) : Byte := s.getD i 0

/-- `fromLE(s[i .. i+2))` as a word16. -/
def halfAt (s : List Byte) (i : Nat) : Half := half (byteAt s i) (byteAt s (i + 1))

/-- `s[i .. i+n)` (R14). -/
def slice (s : List Byte) (i n : Nat) : List Byte := (s.drop i).take n

end Sys2Proof.Machine
end

