-- ==== Sys2Proof/Config.lean ====
section
/-! DEFINITION. What an implementation fixes: the configuration record `cfg` of 00_scope.md section 4 (R7 to R13) with
the window's base address (R38), the model's own choice between two rules on the busy interval (assumption 27), and the
one free value of the spec, the draw a host read returns in that interval (10_state.md R33). The spec passes `cfg` as a parameter of the step relation; the model carries it in State, where no
step changes it (assumption 1). -/

namespace Sys2Proof

/-- P_HDR_BLOCK (R9): where the CRC blocks of a frame begin. -/
inductive HdrBlock where
  | flat      -- the whole frame is cut into 16-byte blocks from its first byte
  | separate  -- the 8-byte data-link header is a block of its own
  deriving DecidableEq, Repr

/-- P_QUAL_MAP (R10): which qualifier-to-range-length table is used. -/
inductive QualMap where
  | doc  -- the document's table, R66
  | std  -- the IEEE 1815 table, R67
  deriving DecidableEq, Repr

/-- P_APP_IIN (R11): whether a response's application header carries internal indications. -/
inductive AppIin where
  | none  -- the header is always 2 bytes
  | resp  -- 2 more bytes for function codes 0x81 and 0x82
  deriving DecidableEq, Repr

/-- When the host may go on after a command, on which the rules of the spec differ (DESIGN CHOICE, assumption 27). Both
readings are modelled. -/
inductive BusyEnd where
  | atPoll        -- when it has read STATUS with BUSY = 0 (70_reset_and_hazards.md R154)
  | atCompletion  -- when the engine has completed the command, so that BUSY = 0 (10_state.md R24, R32, R33)
  deriving DecidableEq, Repr

/-- The configuration record `cfg` (00_scope.md section 4, R7 to R13) and WINDOW_BASE (20_memory.md R38). -/
structure Cfg where
  /-- P_POLY (R7): the CRC feedback constant. -/
  poly : Half
  /-- P_XOROUT (R8): XORed into the final accumulator. -/
  xorout : Half
  /-- P_HDR_BLOCK (R9). -/
  hdrBlock : HdrBlock
  /-- P_QUAL_MAP (R10). -/
  qualMap : QualMap
  /-- P_APP_IIN (R11). -/
  appIin : AppIin
  /-- P_BUILD_DL_CTRL (R12): the control byte BUILD_READ writes. -/
  buildDlCtrl : Byte
  /-- P_FC_READ (R12): the function code of READ. -/
  fcRead : Byte
  /-- IN_CAP (R13): bytes of the input buffer. -/
  inCap : Nat
  /-- OUT_CAP (R13): bytes of the output buffer. -/
  outCap : Nat
  /-- WINDOW_BASE (R38): the window's base in the host's address space. -/
  windowBase : Nat
  /-- The end of the busy interval: the model's own parameter, for two rules of the spec that differ (assumption 27). -/
  busyEnd : BusyEnd
  deriving DecidableEq, Repr

/-- The defaults of the table in 00_scope.md section 4. The spec leaves WINDOW_BASE open and gives it no default: 0 here
is DESIGN CHOICE, unsafe (assumption 2). The busy interval ends at the poll, the reading that admits less: DESIGN CHOICE,
safe (assumption 27). -/
def Cfg.default : Cfg where
  poly := 0xA6BC
  xorout := 0x0000
  hdrBlock := .flat
  qualMap := .doc
  appIin := .none
  buildDlCtrl := 0xC4
  fcRead := 0x01
  inCap := 2048
  outCap := 8192
  windowBase := 0
  busyEnd := .atPoll

/-- FREE VALUE. The value the n-th host read of anything but STATUS returns in the busy interval: "an unconstrained value,
a draw" (10_state.md R33, 93_implementation_defined.md U15). It has no body, so nothing can be proved of it
(assumption 6; safe). -/
opaque Config.draw : Nat → Word

end Sys2Proof
end

