-- ==== Sys2Proof/Machine/HostAsm.lean ====
section
/-! DEFINITION. The names of the window's registers (10_state.md R22), the widths and kinds of a host access
(20_memory.md R43), and the host assembly of 30_encoding.md R75 as data. The types only: what they do is in
Machine/Registers.lean, Machine/HostPort.lean and Machine/HostRun.lean. -/

namespace Sys2Proof.Machine

/-- The mapped registers, in the order of R22's table. -/
inductive Reg where
  | cmd | status | errInfo0 | errInfo1 | inLen | outLen | inOff | consumed | crc | rlen | objCount
  | dl0 | dl1 | th | ah | oh0 | ohA | ohB
  deriving DecidableEq, Repr

/-- Width of a host access. R43 allows 8 and 32 bits; 16 and 64 are the other widths it names, both host faults. -/
inductive Width where
  | w8 | w16 | w32 | w64
  deriving DecidableEq, Repr

/-- A host access: a read, or a write of a value (the low byte for an 8-bit write). -/
inductive BusOp where
  | read
  | write (v : Word)
  deriving DecidableEq, Repr

/-- A `<val>` of host assembly: an immediate or a host register h0 to h7 (R75). -/
inductive HostVal where
  | imm (v : Word)
  | reg (h : Fin 8)
  deriving DecidableEq, Repr

/-- An `<off>` of host assembly (R75): a number, a register name, `IN+i` or `OUT+i`. -/
inductive HostOff where
  | num (n : Nat)
  | reg (r : Reg)
  | inBuf (i : HostVal)
  | outBuf (i : HostVal)
  deriving DecidableEq, Repr

/-- The statements of host assembly (R75). A label is the index of the statement it marks. -/
inductive HostStmt where
  | wr32 (off : HostOff) (val : HostVal)
  | rd32 (h : Fin 8) (off : HostOff)
  | wr8 (off : HostOff) (val : HostVal)
  | rd8 (h : Fin 8) (off : HostOff)
  | add (h src : Fin 8) (val : HostVal)
  | and (h src : Fin 8) (val : HostVal)
  | shr (h src : Fin 8) (val : HostVal)
  | beq (h : Fin 8) (val : HostVal) (label : Nat)
  | bne (h : Fin 8) (val : HostVal) (label : Nat)
  | jmp (label : Nat)
  | halt
  deriving DecidableEq, Repr

end Sys2Proof.Machine
end

