-- ==== Sys2Proof/Machine/State.lean ====
section
/-! DEFINITION. The state of the machine: everything 10_state.md R19 gives the engine (registers, IN, OUT, PEND), and what
the model adds so that one deterministic step covers both agents of 00_scope.md R18 (the configuration, the host, the
interleaving, the draw counter). A register with reserved bits is held as its fields; its 32-bit word is computed in
Machine/Registers.lean, where reserved bits read 0 (R23). -/

namespace Sys2Proof.Machine

/-- A buffer's written bytes: (index, byte) pairs, indexes strictly rising. An index that is not listed is unwritten and
has no value (10_state.md R29, R30): being listed IS the written mark IN_W[i] or OUT_W[i] (assumption 13; safe). -/
abbrev Memory := List Host.Cell

/-- The canonical form: indexes strictly rise. -/
def Memory.wf : Memory → Bool
  | [] => true
  | [_] => true
  | (a, _) :: (b, y) :: m => a < b && Memory.wf ((b, y) :: m)

/-- DL0 and DL1: the data-link header's fields (R22, R24). -/
structure DlHeader where
  len : Byte
  ctrl : Byte
  dest : Half
  src : Half
  deriving DecidableEq, Repr

/-- TH: the transport header's fields (R22, R24). -/
structure ThHeader where
  fin : Bool
  fir : Bool
  seq : BitVec 6
  deriving DecidableEq, Repr

/-- AH: the application header's fields (R22, R24). -/
structure AhHeader where
  fir : Bool
  fin : Bool
  con : Bool
  uns : Bool
  seq : BitVec 4
  fc : Byte
  iin : Half
  deriving DecidableEq, Repr

/-- OH0, OH_A and OH_B: the object header's fields and its decoded range (R22, R24). -/
structure OhHeader where
  group : Byte
  var : Byte
  qual : Byte
  a : Word
  b : Word
  deriving DecidableEq, Repr

/-- RLEN: LEN in [3:0], KIND in [5:4] (R22, R27). -/
structure RangeReg where
  len : BitVec 4
  kind : BitVec 2
  deriving DecidableEq, Repr

/-- The host agent running a program of host assembly (30_encoding.md R75): its program, the index of its next
statement, h0 to h7, and whether it has executed `halt`. -/
structure HostAgent where
  prog : List HostStmt
  pc : Nat
  regs : Vector Word 8
  halted : Bool
  deriving DecidableEq, Repr

/-- What moves next, one entry per step, oldest first (00_scope.md R18, 20_memory.md R48; assumption 3). -/
inductive Event where
  /-- The engine's turn: its step if a command is pending (10_state.md R32). -/
  | engine
  /-- The host's turn: one statement of its program (R75). -/
  | host
  /-- The platform asserts reset (70_reset_and_hazards.md R150). -/
  | reset
  /-- A host access at an address of the host's address space, by a host other than the program (R38, R40). -/
  | bus (addr : Nat) (width : Width) (op : BusOp)
  deriving DecidableEq, Repr

/-- Why a host access faults (20_memory.md R45), in the order R45 lists the reasons. -/
inductive HostFaultReason where
  | unmapped | width | align | readOnlyBuffer | writeWhileBusy | unwritten
  deriving DecidableEq, Repr

/-- What stops the machine. -/
inductive Fault where
  /-- A host access outside the rules of R43 to R45, R33 or R154, with its offset and width. Raised by hostRead and hostWrite.
  Safe: the spec does not say what the hardware does then (R45, R143). -/
  | hostFault (reason : HostFaultReason) (offset : Nat) (width : Width)
  /-- The engine read the byte IN[index], which no host write has written since reset (00_scope.md R16, R29:
  ModelFault(UNWRITTEN)). Raised by readIn, for every command that reads IN. Safe: the spec gives the byte no value. -/
  | unwrittenInput (index : Nat)
  deriving DecidableEq, Repr

/-- What a meaning refuses. -/
inductive Refusal where
  /-- The command has no meaning in the model. Raised by no arm of exec: every command has its meaning. Safe. -/
  | notModelled (mnemonic : String)
  deriving DecidableEq, Repr

/-- The machine. -/
structure State where
  /-- `cfg` (00_scope.md section 4): not engine state; constant (assumption 1). -/
  cfg : Cfg
  /-- PEND (R31): none is `idle`, some v is the latched command word (R32; assumption 4). -/
  pend : Option Word
  /-- STATUS.BUSY (R26). -/
  busy : Bool
  /-- STATUS.DONE (R26). -/
  done : Bool
  /-- STATUS.ERR (R26, R128). -/
  err : Byte
  /-- ERR_INFO0. -/
  errInfo0 : Word
  /-- ERR_INFO1. -/
  errInfo1 : Word
  /-- IN_LEN.LEN. -/
  inLen : Half
  /-- OUT_LEN.LEN. -/
  outLen : Half
  /-- IN_OFF.OFF. -/
  inOff : Half
  /-- CONSUMED.N (R28). -/
  consumed : Half
  /-- CRC.VALUE. -/
  crc : Half
  /-- RLEN (R27). -/
  rlen : RangeReg
  /-- OBJ_COUNT.N. -/
  objCount : Half
  /-- DL0, DL1. -/
  dl : DlHeader
  /-- TH. -/
  th : ThHeader
  /-- AH. -/
  ah : AhHeader
  /-- OH0, OH_A, OH_B. -/
  oh : OhHeader
  /-- IN and its written marks (R29). -/
  inBuf : Memory
  /-- OUT and its written marks (R30). -/
  outBuf : Memory
  /-- The interleaving still to come (assumption 3). -/
  env : List Event
  /-- The host agent and its program (R75). -/
  host : HostAgent
  /-- The value the last host read returned; the model's own observation field (assumption 16). -/
  rdata : Option Word
  /-- The poll of 70_reset_and_hazards.md R154 is due: the host has written CMD and has not since read STATUS with BUSY = 0.
  Never set in a configuration whose busy interval ends at completion (assumption 27). -/
  polling : Bool
  /-- How many draws have been made (R33); the model's own counter (assumption 6). -/
  draws : Nat
  deriving DecidableEq, Repr

/-- No program, h0 to h7 zero (assumption 11). -/
def HostAgent.idle : HostAgent where
  prog := []
  pc := 0
  regs := Vector.replicate 8 0
  halted := false

/-- The machine right after reset (70_reset_and_hazards.md R150, R151), in the default configuration, with no host
program and nothing scheduled. -/
def State.reset : State where
  cfg := Cfg.default
  pend := none
  busy := false
  done := false
  err := 0
  errInfo0 := 0
  errInfo1 := 0
  inLen := 0
  outLen := 0
  inOff := 0
  consumed := 0
  crc := 0
  rlen := { len := 0, kind := 0 }
  objCount := 0
  dl := { len := 0, ctrl := 0, dest := 0, src := 0 }
  th := { fin := false, fir := false, seq := 0 }
  ah := { fir := false, fin := false, con := false, uns := false, seq := 0, fc := 0, iin := 0 }
  oh := { group := 0, var := 0, qual := 0, a := 0, b := 0 }
  inBuf := []
  outBuf := []
  env := []
  host := HostAgent.idle
  rdata := none
  polling := false
  draws := 0

end Sys2Proof.Machine
end

