-- ==== Sys2Proof/Machine/Errors.lean ====
section
/-! DEFINITION. The typed errors of a command and their result codes and information words (60_exceptions.md R128 to
R138). -/

namespace Sys2Proof.Machine

/-- The header kinds of R91 and R130. -/
inductive HeaderKind where
  | dataLink | transport | application | object
  deriving DecidableEq, Repr

/-- The sub-codes of PROGRAMMER_ERROR with their detail (R135). -/
inductive ProgError where
  | inLenRange (len : Nat)       -- 1: IN_LEN.LEN above IN_CAP
  | inOffRange (off : Nat)       -- 2: IN_OFF.OFF above IN_LEN.LEN
  | outOverflow (len : Nat)      -- 3: output longer than OUT_CAP
  | operandRange (reg : Nat)     -- 4: range value wider than its field; the register's offset
  | lenOverflow (len : Nat)      -- 5: data-link LEN above 255
  | rangeListShape (len : Nat)   -- 6: IN_LEN not a multiple of 4
  deriving DecidableEq, Repr

/-- The errors a command can raise (R128). Codes 0x09 and 0x0A are reserved and never produced (R137): they have no
constructor. -/
inductive CmdError where
  | checksumMismatch (block : Nat) (expected actual : Half)              -- R129
  | truncatedHeader (off : Nat) (kind : HeaderKind) (need avail : Nat)   -- R130
  | frameTooShort (seen minimum : Nat)                                   -- R131
  | badStartBytes (off : Nat) (b0 b1 : Byte)                             -- R132
  | truncatedBlock (block tail : Nat)                                    -- R133
  | unsupportedQualifier (off : Nat) (qual : Byte)                       -- R134
  | programmerError (e : ProgError)                                      -- R135
  | illegalCommand (w : Word)                                            -- R136
  deriving DecidableEq, Repr

/-- The classes of R138. The engine behaves the same for each. -/
inductive ErrClass where
  | corruption | incomplete | malformed | programmer
  deriving DecidableEq, Repr

/-- The header kind's number (R91). -/
def HeaderKind.code : HeaderKind → Nat
  | .dataLink => 1
  | .transport => 2
  | .application => 3
  | .object => 4

/-- The sub-code, held in ERR_INFO0 (R135). -/
def ProgError.subCode : ProgError → Nat
  | .inLenRange _ => 1
  | .inOffRange _ => 2
  | .outOverflow _ => 3
  | .operandRange _ => 4
  | .lenOverflow _ => 5
  | .rangeListShape _ => 6

/-- The detail, held in ERR_INFO1 (R135). -/
def ProgError.detail : ProgError → Nat
  | .inLenRange n | .inOffRange n | .outOverflow n | .operandRange n | .lenOverflow n | .rangeListShape n => n

/-- The result code, held in STATUS.ERR (R128). -/
def CmdError.code : CmdError → Byte
  | .checksumMismatch .. => 0x01
  | .truncatedHeader .. => 0x02
  | .frameTooShort .. => 0x03
  | .badStartBytes .. => 0x04
  | .truncatedBlock .. => 0x05
  | .unsupportedQualifier .. => 0x06
  | .programmerError _ => 0x07
  | .illegalCommand _ => 0x08

/-- ERR_INFO0 (R128). -/
def CmdError.info0 : CmdError → Word
  | .checksumMismatch k _ _ => BitVec.ofNat 32 k
  | .truncatedHeader o _ _ _ => BitVec.ofNat 32 o
  | .frameTooShort n _ => BitVec.ofNat 32 n
  | .badStartBytes o _ _ => BitVec.ofNat 32 o
  | .truncatedBlock k _ => BitVec.ofNat 32 k
  | .unsupportedQualifier o _ => BitVec.ofNat 32 o
  | .programmerError e => BitVec.ofNat 32 e.subCode
  | .illegalCommand w => w

/-- ERR_INFO1 (R128). -/
def CmdError.info1 : CmdError → Word
  | .checksumMismatch _ ex rx => rx ++ ex
  | .truncatedHeader _ kind need avail =>
    BitVec.ofNat 16 avail ++ BitVec.ofNat 8 need ++ BitVec.ofNat 8 kind.code
  | .frameTooShort _ m => BitVec.ofNat 32 m
  | .badStartBytes _ b0 b1 => (b1 ++ b0).setWidth 32
  | .truncatedBlock _ r => BitVec.ofNat 32 r
  | .unsupportedQualifier _ q => q.setWidth 32
  | .programmerError e => BitVec.ofNat 32 e.detail
  | .illegalCommand _ => 0

/-- The class of an error (R138). -/
def CmdError.errClass : CmdError → ErrClass
  | .checksumMismatch .. => .corruption
  | .truncatedHeader .. | .frameTooShort .. | .truncatedBlock .. => .incomplete
  | .badStartBytes .. | .unsupportedQualifier .. => .malformed
  | .programmerError _ | .illegalCommand _ => .programmer

/-- How a command's pseudocode can end other than by `return`: it raises a typed error (R139), or it reads an unwritten
byte and faults the model (00_scope.md R16). -/
inductive Stop where
  | raise (e : CmdError)
  | fault (f : Fault)
  deriving DecidableEq, Repr

end Sys2Proof.Machine
end

