-- ==== Sys2Proof/Machine/Ops.lean ====
section
/-! DEFINITION. The named operations over buffers and registers, the completion of a command (10_state.md R32), and the
engine's one event like an exception entry: completion with an error (60_exceptions.md R139, R145). There is no return
from an error; the next CMD write clears STATUS.ERR (R146). -/

namespace Sys2Proof.Machine

/-! ### Buffers (10_state.md R29, R30) -/

/-- The byte at an index, none if it is unwritten. -/
def Memory.read : Memory → Nat → Option Byte
  | [], _ => none
  | (k, v) :: m, a => if k = a then some v else Memory.read m a

/-- Write one byte and set its written mark, keeping the canonical form. -/
def Memory.write : Memory → Nat → Byte → Memory
  | [], a, b => [(a, b)]
  | (k, v) :: m, a, b =>
    if a < k then (a, b) :: (k, v) :: m
    else if a = k then (a, b) :: m
    else (k, v) :: Memory.write m a b

/-- Write a byte string from an index on. -/
def Memory.writeAll (m : Memory) (a : Nat) : List Byte → Memory
  | [] => m
  | b :: bs => Memory.writeAll (m.write a b) (a + 1) bs

/-- Read n bytes from an index on; an unwritten byte gives its index. -/
def Memory.readAll (m : Memory) (a : Nat) : Nat → Except Nat (List Byte)
  | 0 => .ok []
  | n + 1 =>
    match m.read a with
    | none => .error a
    | some b =>
      match Memory.readAll m (a + 1) n with
      | .ok bs => .ok (b :: bs)
      | .error i => .error i

/-! ### Register updates -/

/-- `CRC.VALUE <- v`. -/
def State.setCrc (s : State) (v : Half) : State := { s with crc := v }

/-- `OUT[i] <- out[i]` for i in [0, |out|), and `OUT_LEN.LEN <- |out|` (R30). -/
def State.setOutput (s : State) (out : List Byte) : State :=
  { s with outBuf := s.outBuf.writeAll 0 out, outLen := BitVec.ofNat 16 out.length }

/-- Write DL0 and DL1. -/
def State.setDl (s : State) (h : DlHeader) : State := { s with dl := h }

/-- Write TH. -/
def State.setTh (s : State) (h : ThHeader) : State := { s with th := h }

/-- Write AH. -/
def State.setAh (s : State) (h : AhHeader) : State := { s with ah := h }

/-- Write OH0, OH_A and OH_B. -/
def State.setOh (s : State) (h : OhHeader) : State := { s with oh := h }

/-- Write RLEN. -/
def State.setRlen (s : State) (r : RangeReg) : State := { s with rlen := r }

/-- `CONSUMED.N <- k` (R28). -/
def State.setConsumed (s : State) (k : Nat) : State := { s with consumed := BitVec.ofNat 16 k }

/-- `OBJ_COUNT.N <- n`. -/
def State.setObjCount (s : State) (n : Nat) : State := { s with objCount := BitVec.ofNat 16 n }

/-! ### Issue, completion, error completion, reset -/

/-- Whether the host must see BUSY = 0 before it may go on after a command: so under 70_reset_and_hazards.md R154, not so
under 10_state.md R24 and R32 (assumption 27). -/
def mustPoll (cfg : Cfg) : Bool :=
  match cfg.busyEnd with
  | .atPoll => true
  | .atCompletion => false

/-- A host write of v to CMD (R32): PEND latches the whole word, BUSY is set, DONE and ERR are cleared. Where the
configuration asks for the poll of 70_reset_and_hazards.md R154, it is now due. -/
def State.issueCommand (s : State) (v : Word) : State :=
  { s with pend := some v, busy := true, done := false, err := 0, polling := mustPoll s.cfg }

/-- Completion with success (R32): ERR is 0 and ERR_INFO0 and ERR_INFO1 keep their values (60_exceptions.md R140). -/
def State.succeed (s : State) : State :=
  { s with pend := none, busy := false, done := true, err := 0 }

/-- Completion with an error (60_exceptions.md R139, R145): the code goes to STATUS.ERR, the two information words to
ERR_INFO0 and ERR_INFO1. Nothing else is written (R140). -/
def State.raiseError (s : State) (e : CmdError) : State :=
  { s with
    pend := none, busy := false, done := true, err := e.code, errInfo0 := e.info0, errInfo1 := e.info1 }

/-- The end of a command at its engine step (R32). `r` is the pseudocode's result on `s`: the state with its writes
applied, or how it stopped. A command that raises discards its writes (R140); one that faults the model stops the run
(R143). -/
def complete (s : State) (r : Except Stop State) : Host.Outcome State Fault Refusal :=
  match r with
  | .ok t => .next t.succeed
  | .error (.raise e) => .next (s.raiseError e)
  | .error (.fault f) => .fault f

/-- An error of a pure encoder or decoder, raised by the command that calls it. -/
def raises {α : Type} (r : Except CmdError α) : Except Stop α :=
  match r with
  | .ok a => .ok a
  | .error e => .error (.raise e)

/-- The reset event (70_reset_and_hazards.md R150): every register to its reset value, PEND idle, every written mark
cleared; `cfg` is not state and is unchanged. The busy interval of R154 ends (R153: reset alone leaves the engine ready;
assumption 27). The host agent, the interleaving still to come, `rdata` and `draws` are not the engine's and stay
(assumption 17). -/
def State.resetEvent (s : State) : State :=
  { State.reset with cfg := s.cfg, env := s.env, host := s.host, rdata := s.rdata, draws := s.draws }

end Sys2Proof.Machine
end

