-- ==== Sys2Proof/Machine/Flags.lean ====
section
/-! DEFINITION. The engine's only flags, the fields of STATUS (10_state.md R22, R26), and the encoding of a range kind in
RLEN (R27). -/

namespace Sys2Proof.Machine

/-- STATUS as its 32-bit word (R22): [0] BUSY, [1] DONE, [15:8] ERR, reserved bits 0. -/
def State.statusWord (s : State) : Word :=
  (s.err ++ (0#6 ++ BitVec.ofBool s.done ++ BitVec.ofBool s.busy : BitVec 8) : BitVec 16).setWidth 32

/-- The kinds of range a qualifier selects (R27). -/
inductive RangeKind where
  | none | startStop | count
  deriving DecidableEq, Repr

/-- RLEN.KIND of a kind (R27); 3 is never written. -/
def RangeKind.code : RangeKind → BitVec 2
  | .none => 0
  | .startStop => 1
  | .count => 2

/-- RLEN of a kind and a range length. -/
def rangeReg (kind : RangeKind) (rl : Nat) : RangeReg := { len := BitVec.ofNat 4 rl, kind := kind.code }

/-- RLEN[7:0]: KIND in [5:4], LEN in [3:0] (R22, 42_frame.md R120). -/
def RangeReg.byte (r : RangeReg) : Byte := (r.kind ++ r.len).setWidth 8

end Sys2Proof.Machine
end

