-- ==== Sys2Proof/Machine/Registers.lean ====
section
/-! DEFINITION. The register block of the window (10_state.md R22, R23): each register's offset, access and 32-bit word,
and what a host write stores. A reserved field reads 0 and ignores writes. -/

namespace Sys2Proof.Machine

/-- RW, RO or WO (R22). -/
inductive RegAccess where
  | rw | ro | wo
  deriving DecidableEq, Repr

/-- The byte offset in the register block (R22). -/
def Reg.offset : Reg → Nat
  | .cmd => 0x00
  | .status => 0x04
  | .errInfo0 => 0x08
  | .errInfo1 => 0x0C
  | .inLen => 0x10
  | .outLen => 0x14
  | .inOff => 0x18
  | .consumed => 0x1C
  | .crc => 0x20
  | .rlen => 0x24
  | .objCount => 0x28
  | .dl0 => 0x30
  | .dl1 => 0x34
  | .th => 0x38
  | .ah => 0x3C
  | .oh0 => 0x40
  | .ohA => 0x44
  | .ohB => 0x48

/-- The access column (R22). -/
def Reg.access : Reg → RegAccess
  | .cmd => .wo
  | .status | .errInfo0 | .errInfo1 | .outLen | .consumed | .crc | .rlen | .objCount => .ro
  | .inLen | .inOff | .dl0 | .dl1 | .th | .ah | .oh0 | .ohA | .ohB => .rw

/-- The register whose four bytes start at an offset; 0x2C and 0x4C to 0xFF are reserved (R22, R23). -/
def regAtOffset (off : Nat) : Option Reg :=
  match off with
  | 0x00 => some .cmd
  | 0x04 => some .status
  | 0x08 => some .errInfo0
  | 0x0C => some .errInfo1
  | 0x10 => some .inLen
  | 0x14 => some .outLen
  | 0x18 => some .inOff
  | 0x1C => some .consumed
  | 0x20 => some .crc
  | 0x24 => some .rlen
  | 0x28 => some .objCount
  | 0x30 => some .dl0
  | 0x34 => some .dl1
  | 0x38 => some .th
  | 0x3C => some .ah
  | 0x40 => some .oh0
  | 0x44 => some .ohA
  | 0x48 => some .ohB
  | _ => none

/-- The byte of TH: FIN bit 7, FIR bit 6, SEQ bits 5:0 (R22; 30_encoding.md R59). -/
def ThHeader.byte (h : ThHeader) : Byte := BitVec.ofBool h.fin ++ BitVec.ofBool h.fir ++ h.seq

/-- The fields of TH in a byte (R22; 30_encoding.md R59). -/
def thOfByte (b : Byte) : ThHeader :=
  { fin := b.getLsbD 7, fir := b.getLsbD 6, seq := b.extractLsb' 0 6 }

/-- The application control byte, AH[7:0]: FIR 7, FIN 6, CON 5, UNS 4, SEQ 3:0 (R22; 30_encoding.md R60). -/
def AhHeader.control (h : AhHeader) : Byte :=
  BitVec.ofBool h.fir ++ BitVec.ofBool h.fin ++ BitVec.ofBool h.con ++ BitVec.ofBool h.uns ++ h.seq

/-- The application header of a control byte, a function code and an IIN field (R22; 30_encoding.md R60). -/
def ahOfFields (c fc : Byte) (iin : Half) : AhHeader :=
  { fir := c.getLsbD 7, fin := c.getLsbD 6, con := c.getLsbD 5, uns := c.getLsbD 4, seq := c.extractLsb' 0 4,
    fc := fc, iin := iin }

/-- A register's 32-bit word (R22). CMD is write-only and reads 0 (assumption 5). -/
def State.regWord (s : State) : Reg → Word
  | .cmd => 0
  | .status => s.statusWord
  | .errInfo0 => s.errInfo0
  | .errInfo1 => s.errInfo1
  | .inLen => s.inLen.setWidth 32
  | .outLen => s.outLen.setWidth 32
  | .inOff => s.inOff.setWidth 32
  | .consumed => s.consumed.setWidth 32
  | .crc => s.crc.setWidth 32
  | .rlen => s.rlen.byte.setWidth 32
  | .objCount => s.objCount.setWidth 32
  | .dl0 => (s.dl.ctrl ++ s.dl.len).setWidth 32
  | .dl1 => s.dl.src ++ s.dl.dest
  | .th => s.th.byte.setWidth 32
  | .ah => s.ah.iin ++ s.ah.fc ++ s.ah.control
  | .oh0 => (s.oh.qual ++ s.oh.var ++ s.oh.group).setWidth 32
  | .ohA => s.oh.a
  | .ohB => s.oh.b

/-- A host write of v to a register while the engine is idle: CMD issues a command (R32), an RO register ignores the
write (R22, 20_memory.md R47), an RW register stores its fields and drops reserved bits (R23). -/
def State.writeReg (s : State) (r : Reg) (v : Word) : State :=
  match r with
  | .cmd => s.issueCommand v
  | .status | .errInfo0 | .errInfo1 | .outLen | .consumed | .crc | .rlen | .objCount => s
  | .inLen => { s with inLen := v.extractLsb' 0 16 }
  | .inOff => { s with inOff := v.extractLsb' 0 16 }
  | .dl0 => { s with dl := { s.dl with len := v.extractLsb' 0 8, ctrl := v.extractLsb' 8 8 } }
  | .dl1 => { s with dl := { s.dl with dest := v.extractLsb' 0 16, src := v.extractLsb' 16 16 } }
  | .th => { s with th := thOfByte (v.extractLsb' 0 8) }
  | .ah => { s with ah := ahOfFields (v.extractLsb' 0 8) (v.extractLsb' 8 8) (v.extractLsb' 16 16) }
  | .oh0 =>
    { s with
      oh := { s.oh with group := v.extractLsb' 0 8, var := v.extractLsb' 8 8, qual := v.extractLsb' 16 8 } }
  | .ohA => { s with oh := { s.oh with a := v } }
  | .ohB => { s with oh := { s.oh with b := v } }

end Sys2Proof.Machine
end

