-- ==== Sys2Proof/Machine/Operands.lean ====
section
/-! DEFINITION. How a command gets its operands and stages its output (40_crc.md R78, R79; 41_header_codec.md R91, R100). -/

namespace Sys2Proof.Machine

/-- IN[0..n): an unwritten byte faults the model (00_scope.md R16). -/
def State.readIn (s : State) (n : Nat) : Except Stop (List Byte) :=
  match s.inBuf.readAll 0 n with
  | .ok bs => .ok bs
  | .error i => .error (.fault (.unwrittenInput i))

/-- `CheckIn()` (R78). -/
def State.checkIn (s : State) : Except Stop (List Byte) :=
  if s.inLen.toNat > s.cfg.inCap then .error (.raise (.programmerError (.inLenRange s.inLen.toNat)))
  else s.readIn s.inLen.toNat

/-- `EmitOut(out)` (R79), on the state the command has built. -/
def State.emitOut (s : State) (out : List Byte) : Except Stop State :=
  if out.length > s.cfg.outCap then .error (.raise (.programmerError (.outOverflow out.length)))
  else .ok (s.setOutput out)

/-- `UnpackInput()` (R100): the input string and the offset in it. -/
def State.unpackInput (s : State) : Except Stop (List Byte × Nat) := do
  let str ← s.checkIn
  if s.inOff.toNat > str.length then .error (.raise (.programmerError (.inOffRange s.inOff.toNat)))
  else .ok (str, s.inOff.toNat)

/-- `Need(s, o, need, kind)` (R91). -/
def need (s : List Byte) (o n : Nat) (kind : HeaderKind) : Except CmdError Unit :=
  if s.length - o < n then .error (.truncatedHeader o kind n (s.length - o)) else .ok ()

end Sys2Proof.Machine
end

