-- ==== Sys2Proof/Machine/Crc.lean ====
section
/-! DEFINITION. The CRC engine (40_crc.md): the checksum functions R80 to R84 and the commands CRC16, ADD_CRC and STRIP_CRC
(R88 to R90). -/

namespace Sys2Proof.Machine

/-- One of the 8 iterations of R80: shift right, and XOR with P_POLY if the bit shifted out was 1. -/
def crcShift (poly acc : Half) : Half := if acc.getLsbD 0 then (acc >>> 1) ^^^ poly else acc >>> 1

/-- n iterations of R80. -/
def crcShifts (poly : Half) : Nat → Half → Half
  | 0, acc => acc
  | n + 1, acc => crcShifts poly n (crcShift poly acc)

/-- `CrcUpdate(acc, b)` (R80). -/
def crcUpdate (poly acc : Half) (b : Byte) : Half := crcShifts poly 8 (acc ^^^ b.setWidth 16)

/-- `Crc16(cfg, s)` (R81). The accumulator is local to one evaluation (10_state.md R35). -/
def crc16 (cfg : Cfg) (s : List Byte) : Half := s.foldl (crcUpdate cfg.poly) 0x0000 ^^^ cfg.xorout

/-- The first k blocks of 16 bytes, the last of them possibly shorter. -/
def chunkN : Nat → List Byte → List (List Byte)
  | 0, _ => []
  | k + 1, s => s.take 16 :: chunkN k (s.drop 16)

/-- `Chunk(s)` (R82): ceil(|s|/16) blocks. -/
def chunk (s : List Byte) : List (List Byte) := chunkN ((s.length + 15) / 16) s

/-- A block with its CRC, low byte first (30_encoding.md R69). -/
def withCrc (cfg : Cfg) (blk : List Byte) : List Byte := blk ++ le16 (crc16 cfg blk)

/-- `AddChecksums(cfg, s)` (R83). -/
def addChecksums (cfg : Cfg) (s : List Byte) : List Byte := (chunk s).flatMap (withCrc cfg)

/-- The check of one block in R84: `blk` followed by the CRC bytes `crc`, as block number k. -/
def verifyBlock (cfg : Cfg) (k : Nat) (blk crc : List Byte) : Except CmdError (List Byte) :=
  if crc16 cfg blk = halfAt crc 0 then .ok blk
  else .error (.checksumMismatch k (crc16 cfg blk) (halfAt crc 0))

/-- The tail of R84, shorter than 18 bytes: nothing, a truncated block, or one short block. -/
def stripTail (cfg : Cfg) (k : Nat) (f : List Byte) : Except CmdError (List Byte) :=
  if f.length = 0 then .ok []
  else if f.length ≤ 2 then .error (.truncatedBlock k f.length)
  else verifyBlock cfg k (f.take (f.length - 2)) (f.drop (f.length - 2))

/-- The loop of R84 over n full blocks of 18 bytes, then the tail. -/
def stripBlocks (cfg : Cfg) : Nat → Nat → List Byte → Except CmdError (List Byte)
  | 0, k, f => stripTail cfg k f
  | n + 1, k, f => do
    let blk ← verifyBlock cfg k (f.take 16) ((f.drop 16).take 2)
    let rest ← stripBlocks cfg n (k + 1) (f.drop 18)
    .ok (blk ++ rest)

/-- `StripAndVerify(cfg, f, k0)` (R84): the loop runs while 18 bytes remain, which is floor(|f|/18) times. -/
def stripAndVerify (cfg : Cfg) (f : List Byte) (k0 : Nat) : Except CmdError (List Byte) :=
  stripBlocks cfg (f.length / 18) k0 f

/-- CRC16 (R88). -/
def execCrc16 (s : State) : Host.Outcome State Fault Refusal :=
  complete s do
    let str ← s.checkIn
    .ok (s.setCrc (crc16 s.cfg str))

/-- ADD_CRC (R89). -/
def execAddCrc (s : State) : Host.Outcome State Fault Refusal :=
  complete s do
    let str ← s.checkIn
    s.emitOut (addChecksums s.cfg str)

/-- STRIP_CRC (R90). -/
def execStripCrc (s : State) : Host.Outcome State Fault Refusal :=
  complete s do
    let f ← s.checkIn
    let str ← raises (stripAndVerify s.cfg f 0)
    s.emitOut str

end Sys2Proof.Machine
end

