-- ==== Sys2Proof/Machine/HeaderCodec.lean ====
section
/-! DEFINITION. The header codecs (41_header_codec.md): the encoders and decoders R92 to R99, the qualifier tables
(30_encoding.md R65 to R67), and the nine commands R101 to R109. -/

namespace Sys2Proof.Machine

/-! ### Data-link header -/

/-- `EncDL` (R92; 30_encoding.md R55). -/
def encDl (h : DlHeader) : List Byte := [0x05, 0x64, h.len, h.ctrl] ++ le16 h.dest ++ le16 h.src

/-- `DecDL(s, o)` (R93): the truncation check, then the start bytes. -/
def decDl (s : List Byte) (o : Nat) : Except CmdError (DlHeader × Nat) := do
  need s o 8 .dataLink
  if byteAt s o = 0x05 ∧ byteAt s (o + 1) = 0x64 then
    .ok ({ len := byteAt s (o + 2), ctrl := byteAt s (o + 3), dest := halfAt s (o + 4), src := halfAt s (o + 6) }, 8)
  else .error (.badStartBytes o (byteAt s o) (byteAt s (o + 1)))

/-! ### Transport header -/

/-- `EncTH` (R94; 30_encoding.md R59). -/
def encTh (h : ThHeader) : List Byte := [h.byte]

/-- `DecTH(s, o)` (R95). -/
def decTh (s : List Byte) (o : Nat) : Except CmdError (ThHeader × Nat) := do
  need s o 1 .transport
  .ok (thOfByte (byteAt s o), 1)

/-! ### Application header -/

/-- `HasIIN(cfg, fc)` (R96; 30_encoding.md R61). -/
def hasIin (cfg : Cfg) (fc : Byte) : Bool := cfg.appIin == .resp && (fc == 0x81 || fc == 0x82)

/-- `EncAH` (R96; 30_encoding.md R60, R61). -/
def encAh (cfg : Cfg) (h : AhHeader) : List Byte :=
  if hasIin cfg h.fc then [h.control, h.fc] ++ le16 h.iin else [h.control, h.fc]

/-- `DecAH(cfg, s, o)` (R97). -/
def decAh (cfg : Cfg) (s : List Byte) (o : Nat) : Except CmdError (AhHeader × Nat) := do
  need s o 2 .application
  if hasIin cfg (byteAt s (o + 1)) then
    need s o 4 .application
    .ok (ahOfFields (byteAt s o) (byteAt s (o + 1)) (halfAt s (o + 2)), 4)
  else .ok (ahOfFields (byteAt s o) (byteAt s (o + 1)) 0, 2)

/-! ### Object header -/

/-- The document's table (30_encoding.md R66), indexed by `q AND 0x70`. -/
def rangeLenDoc (q : Byte) : Option (RangeKind × Nat) :=
  match (q &&& 0x70).toNat with
  | 0x00 => some (.startStop, 2)
  | 0x10 => some (.startStop, 4)
  | 0x20 => some (.startStop, 8)
  | 0x30 => some (.count, 1)
  | 0x40 => some (.count, 2)
  | 0x50 => some (.count, 4)
  | 0x60 => some (.none, 0)
  | _ => none

/-- The IEEE 1815 table (30_encoding.md R67), indexed by `q AND 0x0F`. -/
def rangeLenStd (q : Byte) : Option (RangeKind × Nat) :=
  match (q &&& 0x0F).toNat with
  | 0x00 => some (.startStop, 2)
  | 0x01 => some (.startStop, 4)
  | 0x02 => some (.startStop, 8)
  | 0x03 => some (.startStop, 2)
  | 0x04 => some (.startStop, 4)
  | 0x05 => some (.startStop, 8)
  | 0x06 => some (.none, 0)
  | 0x07 => some (.count, 1)
  | 0x08 => some (.count, 2)
  | 0x09 => some (.count, 4)
  | 0x0B => some (.count, 1)
  | _ => none

/-- `RangeLen(cfg, q)` (30_encoding.md R65); none is UNSUPPORTED_QUALIFIER. -/
def rangeLen (cfg : Cfg) (q : Byte) : Option (RangeKind × Nat) :=
  match cfg.qualMap with
  | .doc => rangeLenDoc q
  | .std => rangeLenStd q

/-- `RangeLen` with its error, for a header at offset o (R98, R99, R109). -/
def rangeLenAt (cfg : Cfg) (o : Nat) (q : Byte) : Except CmdError (RangeKind × Nat) :=
  match rangeLen cfg q with
  | some r => .ok r
  | none => .error (.unsupportedQualifier o q)

/-- The check of R98 that a range value fits its field of w bytes; `reg` is the register's offset. -/
def fits (v : Word) (w : Nat) (reg : Reg) : Except CmdError Unit :=
  if v.toNat ≥ 2 ^ (8 * w) then .error (.programmerError (.operandRange reg.offset)) else .ok ()

/-- The range field of R98 (30_encoding.md R64). -/
def encRange (kind : RangeKind) (rl : Nat) (a b : Word) : Except CmdError (List Byte) :=
  match kind with
  | .none => .ok []
  | .startStop => do
    fits a (rl / 2) .ohA
    fits b (rl / 2) .ohB
    .ok (leN a.toNat (rl / 2) ++ leN b.toNat (rl / 2))
  | .count => do
    fits a rl .ohA
    .ok (leN a.toNat rl)

/-- `EncOH` (R98; 30_encoding.md R63). -/
def encOh (cfg : Cfg) (h : OhHeader) : Except CmdError (List Byte) := do
  let (kind, rl) ← rangeLenAt cfg 0 h.qual
  let r ← encRange kind rl h.a h.b
  .ok ([h.group, h.var, h.qual] ++ r)

/-- A decoded object header: its fields, its range's kind and length (R99). -/
structure ObjHeader where
  hdr : OhHeader
  kind : RangeKind
  rl : Nat
  deriving DecidableEq, Repr

/-- The values a and b of a range field (R99; 30_encoding.md R64). -/
def decRange (kind : RangeKind) (rl : Nat) (r : List Byte) : Word × Word :=
  match kind with
  | .none => (0, 0)
  | .startStop =>
    (BitVec.ofNat 32 (fromLE (slice r 0 (rl / 2))), BitVec.ofNat 32 (fromLE (slice r (rl / 2) (rl / 2))))
  | .count => (BitVec.ofNat 32 (fromLE r), 0)

/-- `DecOH(cfg, s, o)` (R99). -/
def decOh (cfg : Cfg) (s : List Byte) (o : Nat) : Except CmdError (ObjHeader × Nat) := do
  need s o 3 .object
  let (kind, rl) ← rangeLenAt cfg o (byteAt s (o + 2))
  need s o (3 + rl) .object
  let (a, b) := decRange kind rl (slice s (o + 3) rl)
  .ok ({ hdr := { group := byteAt s o, var := byteAt s (o + 1), qual := byteAt s (o + 2), a := a, b := b },
         kind := kind, rl := rl }, 3 + rl)

/-! ### Commands -/

/-- PACK_DL (R101). -/
def execPackDl (s : State) : Host.Outcome State Fault Refusal :=
  complete s (s.emitOut (encDl s.dl))

/-- UNPACK_DL (R102). -/
def execUnpackDl (s : State) : Host.Outcome State Fault Refusal :=
  complete s do
    let (str, o) ← s.unpackInput
    let (h, k) ← raises (decDl str o)
    .ok ((s.setDl h).setConsumed k)

/-- PACK_TH (R103). -/
def execPackTh (s : State) : Host.Outcome State Fault Refusal :=
  complete s (s.emitOut (encTh s.th))

/-- UNPACK_TH (R104). -/
def execUnpackTh (s : State) : Host.Outcome State Fault Refusal :=
  complete s do
    let (str, o) ← s.unpackInput
    let (h, k) ← raises (decTh str o)
    .ok ((s.setTh h).setConsumed k)

/-- PACK_AH (R105). -/
def execPackAh (s : State) : Host.Outcome State Fault Refusal :=
  complete s (s.emitOut (encAh s.cfg s.ah))

/-- UNPACK_AH (R106). -/
def execUnpackAh (s : State) : Host.Outcome State Fault Refusal :=
  complete s do
    let (str, o) ← s.unpackInput
    let (h, k) ← raises (decAh s.cfg str o)
    .ok ((s.setAh h).setConsumed k)

/-- PACK_OH (R107). -/
def execPackOh (s : State) : Host.Outcome State Fault Refusal :=
  complete s do
    let out ← raises (encOh s.cfg s.oh)
    s.emitOut out

/-- UNPACK_OH (R108). -/
def execUnpackOh (s : State) : Host.Outcome State Fault Refusal :=
  complete s do
    let (str, o) ← s.unpackInput
    let (h, k) ← raises (decOh s.cfg str o)
    .ok (((s.setOh h.hdr).setRlen (rangeReg h.kind h.rl)).setConsumed k)

/-- RANGE_LEN (R109). -/
def execRangeLen (s : State) : Host.Outcome State Fault Refusal :=
  complete s do
    let (kind, rl) ← raises (rangeLenAt s.cfg 0 s.oh.qual)
    .ok (s.setRlen (rangeReg kind rl))

end Sys2Proof.Machine
end

