-- ==== Sys2Proof/Machine/Frame.lean ====
section
/-! DEFINITION. The frame assembler and parser (42_frame.md): R112 to R121, and the commands BUILD_READ and PARSE_FRAME. -/

namespace Sys2Proof.Machine

/-- `FrameEncode(cfg, u)` (R112). -/
def frameEncode (cfg : Cfg) (u : List Byte) : List Byte :=
  match cfg.hdrBlock with
  | .flat => addChecksums cfg u
  | .separate => addChecksums cfg (u.take 8) ++ addChecksums cfg (u.drop 8)

/-- `FrameDecode(cfg, f)` (R113). -/
def frameDecode (cfg : Cfg) (f : List Byte) : Except CmdError (List Byte) :=
  match cfg.hdrBlock with
  | .flat => stripAndVerify cfg f 0
  | .separate =>
    if f.length < 10 then .error (.frameTooShort f.length 10)
    else do
      let h ← stripAndVerify cfg (f.take 10) 0
      let d ← stripAndVerify cfg (f.drop 10) 1
      .ok (h ++ d)

/-- One range of BUILD_READ's operand (R115). -/
structure ReadRange where
  group : Byte
  var : Byte
  start : Byte
  stop : Byte
  deriving DecidableEq, Repr

/-- The 4-byte records of R115. -/
def rangesOf : List Byte → List ReadRange
  | g :: v :: a :: b :: s => { group := g, var := v, start := a, stop := b } :: rangesOf s
  | _ => []

/-- `ReadRanges()` (R115). -/
def State.readRanges (s : State) : Except Stop (List ReadRange) := do
  let str ← s.checkIn
  if str.length % 4 ≠ 0 then .error (.raise (.programmerError (.rangeListShape str.length)))
  else .ok (rangesOf str)

/-- The object header of a range: qualifier 0x00, the 8-bit start/stop entry (R116). -/
def ReadRange.header (r : ReadRange) : OhHeader :=
  { group := r.group, var := r.var, qual := 0x00, a := r.start.setWidth 32, b := r.stop.setWidth 32 }

/-- The object headers of R116, in order. -/
def encRanges (cfg : Cfg) : List ReadRange → Except CmdError (List Byte)
  | [] => .ok []
  | r :: rs => do
    let h ← encOh cfg r.header
    let t ← encRanges cfg rs
    .ok (h ++ t)

/-- `BuildReadRequest` (R116). -/
def buildReadRequest (cfg : Cfg) (src dst : Half) (aseq : BitVec 4) (tseq : BitVec 6) (ranges : List ReadRange) :
    Except CmdError (List Byte) := do
  let objs ← encRanges cfg ranges
  let ud :=
    encTh { fin := true, fir := true, seq := tseq } ++
      encAh cfg { fir := true, fin := true, con := false, uns := false, seq := aseq, fc := cfg.fcRead, iin := 0 } ++ objs
  let len := 5 + ud.length
  if len > 255 then .error (.programmerError (.lenOverflow len))
  else .ok (frameEncode cfg (encDl { len := BitVec.ofNat 8 len, ctrl := cfg.buildDlCtrl, dest := dst, src := src } ++ ud))

/-- The object headers of R119 from offset pos of u on. Each header is at least 3 bytes, so |u| rounds are enough
for the loop to reach the end of u. -/
def parseObjects (cfg : Cfg) (u : List Byte) : Nat → Nat → Except CmdError (List ObjHeader)
  | 0, _ => .ok []
  | n + 1, pos =>
    if pos < u.length then do
      let (oh, c) ← decOh cfg u pos
      let objs ← parseObjects cfg u n (pos + c)
      .ok (oh :: objs)
    else .ok []

/-- The result of R119. -/
structure ParsedFrame where
  dl : DlHeader
  th : ThHeader
  ah : AhHeader
  objs : List ObjHeader
  deriving DecidableEq, Repr

/-- The part of R119 after the CRCs are gone: the unframed frame u. -/
def parseUnframed (cfg : Cfg) (u : List Byte) : Except CmdError ParsedFrame :=
  if u.length < 11 then .error (.frameTooShort u.length 11)
  else do
    let (dl, _) ← decDl u 0
    let (th, _) ← decTh u 8
    let (ah, k) ← decAh cfg u 9
    let objs ← parseObjects cfg u u.length (9 + k)
    .ok { dl := dl, th := th, ah := ah, objs := objs }

/-- `ParseFrame(cfg, f)` (R119): the CRCs first. -/
def parseFrame (cfg : Cfg) (f : List Byte) : Except CmdError ParsedFrame := do
  let u ← frameDecode cfg f
  parseUnframed cfg u

/-- The 12-byte object record (R120). -/
def record (o : ObjHeader) : List Byte :=
  [o.hdr.group, o.hdr.var, o.hdr.qual, (rangeReg o.kind o.rl).byte] ++ le32 o.hdr.a ++ le32 o.hdr.b

/-- BUILD_READ (R118). -/
def execBuildRead (s : State) : Host.Outcome State Fault Refusal :=
  complete s do
    let rs ← s.readRanges
    let f ← raises (buildReadRequest s.cfg s.dl.src s.dl.dest s.ah.seq s.th.seq rs)
    s.emitOut f

/-- PARSE_FRAME (R121). -/
def execParseFrame (s : State) : Host.Outcome State Fault Refusal :=
  complete s do
    let f ← s.checkIn
    let p ← raises (parseFrame s.cfg f)
    let t ← s.emitOut (p.objs.flatMap record)
    .ok ((((t.setDl p.dl).setTh p.th).setAh p.ah).setObjCount p.objs.length)

end Sys2Proof.Machine
end

