-- ==== Sys2Proof/Syntax.lean ====
section
/-! DEFINITION. The commands of the engine: one constructor per row of spec/opcode_table.json (30_encoding.md R72).
A command word has one format and no operand field (R71): every operand is in a register or in the input buffer, so
no constructor has an argument. -/

namespace Sys2Proof

/-- The 14 commands (R72), in the table's order. -/
inductive Instr where
  | crc16       -- CRC16,       R88
  | addCrc      -- ADD_CRC,     R89
  | stripCrc    -- STRIP_CRC,   R90
  | packDl      -- PACK_DL,     R101
  | unpackDl    -- UNPACK_DL,   R102
  | packTh      -- PACK_TH,     R103
  | unpackTh    -- UNPACK_TH,   R104
  | packAh      -- PACK_AH,     R105
  | unpackAh    -- UNPACK_AH,   R106
  | packOh      -- PACK_OH,     R107
  | unpackOh    -- UNPACK_OH,   R108
  | rangeLen    -- RANGE_LEN,   R109
  | buildRead   -- BUILD_READ,  R118
  | parseFrame  -- PARSE_FRAME, R121
  deriving DecidableEq, Repr

end Sys2Proof
end

