-- ==== Sys2Proof/Machine/Dispatch.lean ====
section
/-! DEFINITION. The dispatch of 30_encoding.md R73: each command to its meaning. A word that is no command never comes here;
Machine/Engine.lean completes it with ILLEGAL_COMMAND. -/

namespace Sys2Proof.Machine

def exec (i : Instr) (s : State) : Host.Outcome State Fault Refusal :=
  match i with
  | .crc16 => Sys2Proof.Machine.execCrc16 s
  | .addCrc => Sys2Proof.Machine.execAddCrc s
  | .stripCrc => Sys2Proof.Machine.execStripCrc s
  | .packDl => Sys2Proof.Machine.execPackDl s
  | .unpackDl => Sys2Proof.Machine.execUnpackDl s
  | .packTh => Sys2Proof.Machine.execPackTh s
  | .unpackTh => Sys2Proof.Machine.execUnpackTh s
  | .packAh => Sys2Proof.Machine.execPackAh s
  | .unpackAh => Sys2Proof.Machine.execUnpackAh s
  | .packOh => Sys2Proof.Machine.execPackOh s
  | .unpackOh => Sys2Proof.Machine.execUnpackOh s
  | .rangeLen => Sys2Proof.Machine.execRangeLen s
  | .buildRead => Sys2Proof.Machine.execBuildRead s
  | .parseFrame => Sys2Proof.Machine.execParseFrame s

end Sys2Proof.Machine
end

