-- ==== Sys2Proof/WellFormed.lean ====
section
/-! DEFINITION. The checks: a command word's form (30_encoding.md R71, R74), and the legal values of the configuration
(00_scope.md section 4, R7, R8, R13). A command has no operand field, so every `Instr` is well formed. -/

namespace Sys2Proof

/-- R71: bits [31:8] of a command word must be 0. -/
def reservedClear (w : Word) : Bool := w.extractLsb' 8 24 == 0

/-- R72: the opcodes that name a command. R74 lists the others. -/
def opcodeAssigned (op : Byte) : Bool :=
  (0x01 ≤ op.toNat && op.toNat ≤ 0x03) || (0x10 ≤ op.toNat && op.toNat ≤ 0x18) ||
    (0x20 ≤ op.toNat && op.toNat ≤ 0x21)

/-- A command word that names a command: both checks of R74. -/
def wellFormedWord (w : Word) : Bool := reservedClear w && opcodeAssigned (w.setWidth 8)

/-- A command has no operand field (R71), so no value of one can be out of range. -/
def Instr.wellFormed : Instr → Bool
  | .crc16 | .addCrc | .stripCrc | .packDl | .unpackDl | .packTh | .unpackTh | .packAh | .unpackAh | .packOh
  | .unpackOh | .rangeLen | .buildRead | .parseFrame => true

/-- R7: P_POLY is any value other than 0x0000. -/
def Cfg.polyLegal (c : Cfg) : Bool := c.poly != 0

/-- R8: P_XOROUT is 0x0000 or 0xFFFF. -/
def Cfg.xoroutLegal (c : Cfg) : Bool := c.xorout == 0x0000 || c.xorout == 0xFFFF

/-- 00_scope.md section 4: IN_CAP is 1 to 8192. -/
def Cfg.inCapLegal (c : Cfg) : Bool := 1 ≤ c.inCap && c.inCap ≤ 8192

/-- 00_scope.md section 4: OUT_CAP is 1 to 16384. -/
def Cfg.outCapLegal (c : Cfg) : Bool := 1 ≤ c.outCap && c.outCap ≤ 16384

/-- R13: OUT_CAP >= IN_CAP + 2·ceil(IN_CAP/16) and OUT_CAP >= 12·floor((IN_CAP-11)/3). (Below IN_CAP = 11 the second
bound is no constraint, and natural subtraction makes it 0.) -/
def Cfg.capsFit (c : Cfg) : Bool :=
  c.inCap + 2 * ((c.inCap + 15) / 16) ≤ c.outCap && 12 * ((c.inCap - 11) / 3) ≤ c.outCap

/-- A legal configuration (R7, R8, R13); the other parameters take every value of their types. -/
def Cfg.legal (c : Cfg) : Bool :=
  c.polyLegal && c.xoroutLegal && c.inCapLegal && c.outCapLegal && c.capsFit

end Sys2Proof
end

