-- ==== Sys2Proof/Decode.lean ====
section
/-! DEFINITION. The command word's decoder and encoder (30_encoding.md R71 to R74). A command word is 32 bits; the host
writes it to CMD, whose bytes lie little-endian in the window (20_memory.md R42). Decoding is total; a word that is no
command is rejected under a name. -/

namespace Sys2Proof

/-- Why a word, or a byte string, is no command. -/
inductive DecodeError where
  /-- Fewer than the 4 bytes of a command word. -/
  | truncated
  /-- A bit of [31:8] is set (R71, R74). -/
  | reservedBitsSet
  /-- The opcode is not in the map of R72 (R74). -/
  | opcodeUnassigned
  deriving DecidableEq, Repr

/-- The opcode map (R72). -/
def opcodeInstr (op : Byte) : Option Instr :=
  match op.toNat with
  | 0x01 => some .crc16
  | 0x02 => some .addCrc
  | 0x03 => some .stripCrc
  | 0x10 => some .packDl
  | 0x11 => some .unpackDl
  | 0x12 => some .packTh
  | 0x13 => some .unpackTh
  | 0x14 => some .packAh
  | 0x15 => some .unpackAh
  | 0x16 => some .packOh
  | 0x17 => some .unpackOh
  | 0x18 => some .rangeLen
  | 0x20 => some .buildRead
  | 0x21 => some .parseFrame
  | _ => none

/-- The dispatch check of R73: bits [31:8] first, then the opcode. -/
def decodeWord (w : Word) : Except DecodeError Instr :=
  if w.extractLsb' 8 24 = 0 then
    match opcodeInstr (w.setWidth 8) with
    | some i => .ok i
    | none => .error .opcodeUnassigned
  else .error .reservedBitsSet

/-- The 32-bit value of four window bytes, least significant first (R42). -/
def wordOfBytes (b0 b1 b2 b3 : Byte) : Word := b3 ++ b2 ++ b1 ++ b0

/-- The four window bytes of a 32-bit value, least significant first (R42). -/
def bytesOfWord (w : Word) : List Byte :=
  [w.extractLsb' 0 8, w.extractLsb' 8 8, w.extractLsb' 16 8, w.extractLsb' 24 8]

/-- Decoding from bytes: the command and the bytes after its word. -/
def decodeBytes : List Byte → Except DecodeError (Instr × List Byte)
  | b0 :: b1 :: b2 :: b3 :: rest =>
    match decodeWord (wordOfBytes b0 b1 b2 b3) with
    | .ok i => .ok (i, rest)
    | .error e => .error e
  | _ => .error .truncated

/-- The OPCODE byte of a command (R72). -/
def opcodeOf : Instr → Byte
  | .crc16 => 0x01
  | .addCrc => 0x02
  | .stripCrc => 0x03
  | .packDl => 0x10
  | .unpackDl => 0x11
  | .packTh => 0x12
  | .unpackTh => 0x13
  | .packAh => 0x14
  | .unpackAh => 0x15
  | .packOh => 0x16
  | .unpackOh => 0x17
  | .rangeLen => 0x18
  | .buildRead => 0x20
  | .parseFrame => 0x21

/-- The command word: OPCODE in [7:0], zeros above (R71). -/
def encode (i : Instr) : Word := (opcodeOf i).setWidth 32

/-- The command word's window bytes. -/
def encodeBytes (i : Instr) : List Byte := bytesOfWord (encode i)

/-- The host's question: what the decoder reads from an instruction whose bits, numbered as spec/opcode_table.json
numbers them, are `w`, the first `nbits` of them given and every higher bit 0. A number with a bit above the command
word's 32 is no command word. -/
def decodeTableWord (nbits w : Nat) : Option Instr :=
  if w % 2 ^ nbits < 2 ^ 32 then
    match decodeBytes (bytesOfWord (BitVec.ofNat 32 (w % 2 ^ nbits))) with
    | .ok (i, _) => some i
    | .error _ => none
  else none

end Sys2Proof
end

