-- ==== Sys2Proof/Machine/HostPort.lean ====
section
/-! DEFINITION. Host accesses to the window (20_memory.md R37 to R49; 10_state.md R33; 70_reset_and_hazards.md R154): the
window map, the width and alignment rules, the faults, and what a read returns and a write stores. -/

namespace Sys2Proof.Machine

/-- What a mapped offset of the window reaches (R40). -/
inductive Place where
  | reg (r : Reg)
  | inBuf (i : Nat)
  | outBuf (i : Nat)
  deriving DecidableEq, Repr

/-- The window map (R40, R22, R23). None is reserved, or outside the window's 15-bit offsets (R37).
DESIGN CHOICE (assumption 29): an offset of 0x8000 or more, which host assembly can give, is not mapped, so its access is a
host fault UNMAPPED.
DESIGN CHOICE (assumption 30): an offset inside the word of a mapped register reaches that register, so the host fault of
such an access is WIDTH or ALIGN, not UNMAPPED. -/
def placeOf (cfg : Cfg) (off : Nat) : Option Place :=
  if off < 0x100 then (regAtOffset (off / 4 * 4)).map .reg
  else if 0x2000 ≤ off ∧ off < 0x2000 + cfg.inCap ∧ off < 0x4000 then some (.inBuf (off - 0x2000))
  else if 0x4000 ≤ off ∧ off < 0x4000 + cfg.outCap ∧ off < 0x8000 then some (.outBuf (off - 0x4000))
  else none

/-- The width rules of a buffer of `cap` bytes at index i (R43, R44): 8 bits anywhere, 32 bits at a multiple of 4 and
not past the last byte. -/
def checkBuffer (cap i : Nat) (w : Width) : Except HostFaultReason Unit :=
  match w with
  | .w8 => .ok ()
  | .w32 => if i % 4 ≠ 0 then .error .align else if i + 3 < cap then .ok () else .error .unmapped
  | .w16 | .w64 => .error .width

/-- The width rules of a place (R43): the register block takes only aligned 32-bit accesses. -/
def checkWidth (cfg : Cfg) (off : Nat) (w : Width) : Place → Except HostFaultReason Unit
  | .reg _ => if w ≠ .w32 then .error .width else if off % 4 ≠ 0 then .error .align else .ok ()
  | .inBuf i => checkBuffer cfg.inCap i w
  | .outBuf i => checkBuffer cfg.outCap i w

/-- The place of an access that the map and the width rules allow (R40, R43, R44). Where several reasons hold, the order
is: the offset is not mapped, the width, the alignment, bytes past a buffer's end (assumption 8). -/
def access (cfg : Cfg) (off : Nat) (w : Width) : Except HostFaultReason Place :=
  match placeOf cfg off with
  | none => .error .unmapped
  | some p =>
    match checkWidth cfg off w p with
    | .ok () => .ok p
    | .error r => .error r

/-- The bytes an access covers. -/
def Width.bytes : Width → Nat
  | .w8 => 1
  | .w16 => 2
  | .w32 => 4
  | .w64 => 8

/-- The value of n buffer bytes from index i on, little-endian (R42); an unwritten byte faults (R41, R30). -/
def readBuffer (m : Memory) (i n : Nat) : Except HostFaultReason Word :=
  match m.readAll i n with
  | .ok bs => .ok (BitVec.ofNat 32 (fromLE bs))
  | .error _ => .error .unwritten

/-- What a read of a place returns while the engine is idle (R41, R42). -/
def State.readPlace (s : State) (w : Width) : Place → Except HostFaultReason Word
  | .reg r => .ok (s.regWord r)
  | .inBuf i => readBuffer s.inBuf i w.bytes
  | .outBuf i => readBuffer s.outBuf i w.bytes

/-- A draw (10_state.md R33), as wide as the access. -/
def drawValue (n : Nat) : Width → Word
  | .w8 => ((Config.draw n).setWidth 8).setWidth 32
  | .w16 | .w32 | .w64 => Config.draw n

/-- The busy interval, in which the host may only read STATUS: while BUSY = 1 (10_state.md R33), and, where the configuration
follows 70_reset_and_hazards.md R154, on until STATUS has been read with BUSY = 0 (assumption 27). -/
def State.awaiting (s : State) : Bool := s.busy || s.polling

/-- The state after a read that returned a value of the engine. In the busy interval that is a read of STATUS, which ends
the interval if it shows BUSY = 0 (R154); outside it nothing but the observation changes (R47). -/
def State.observe (s : State) (v : Word) : State := { s with rdata := some v, polling := s.polling && s.busy }

/-- A host read: its value, and the state after it. In the busy interval a read of STATUS returns STATUS and a read of
anything else returns a draw (10_state.md R33; 70_reset_and_hazards.md R154; assumptions 6, 7 and 27). -/
def State.hostRead (s : State) (off : Nat) (w : Width) : Except Fault (Word × State) :=
  match access s.cfg off w with
  | .error r => .error (.hostFault r off w)
  | .ok p =>
    if s.awaiting = true ∧ p ≠ .reg .status then
      .ok (drawValue s.draws w, { s with rdata := some (drawValue s.draws w), draws := s.draws + 1 })
    else
      match s.readPlace w p with
      | .ok v => .ok (v, s.observe v)
      | .error r => .error (.hostFault r off w)

/-- A host write of v. OUT is read-only (R44); a write in the busy interval is a host fault (10_state.md R33;
70_reset_and_hazards.md R154). A byte write stores the low byte of v (assumption 10). -/
def State.hostWrite (s : State) (off : Nat) (w : Width) (v : Word) : Except Fault State :=
  match access s.cfg off w with
  | .error r => .error (.hostFault r off w)
  | .ok (.outBuf _) => .error (.hostFault .readOnlyBuffer off w)
  | .ok (.reg r) => if s.awaiting then .error (.hostFault .writeWhileBusy off w) else .ok (s.writeReg r v)
  | .ok (.inBuf i) =>
    if s.awaiting then .error (.hostFault .writeWhileBusy off w)
    else .ok { s with inBuf := s.inBuf.writeAll i ((le32 v).take w.bytes) }

/-- The window offset of the first byte of an access, given its address in the host's address space (R38); none if that
byte is outside the window. DESIGN CHOICE (assumption 28): an access whose first byte lies just below WINDOW_BASE and
whose later bytes lie in the window is taken as outside it. -/
def windowOffset (cfg : Cfg) (addr : Nat) : Option Nat :=
  if cfg.windowBase ≤ addr ∧ addr < cfg.windowBase + 0x8000 then some (addr - cfg.windowBase) else none

/-- A host access by address. An access whose first byte is outside the window belongs to the platform and does not
reach the engine (R40; assumptions 15 and 28). -/
def State.busAccess (s : State) (addr : Nat) (w : Width) (op : BusOp) : Host.Outcome State Fault Refusal :=
  match windowOffset s.cfg addr with
  | none => .next s
  | some off =>
    match op with
    | .read =>
      match s.hostRead off w with
      | .ok (_, t) => .next t
      | .error f => .fault f
    | .write v =>
      match s.hostWrite off w v with
      | .ok t => .next t
      | .error f => .fault f

end Sys2Proof.Machine
end

