-- ==== Sys2Proof/Machine/HostRun.lean ====
section
/-! DEFINITION. The host agent (00_scope.md R18) running host assembly (30_encoding.md R75), and the pseudo-instructions of
R76. Host registers belong to the host, not to the engine. -/

namespace Sys2Proof.Machine

/-- The value of a `<val>` (R75). -/
def HostAgent.val (h : HostAgent) : HostVal → Word
  | .imm v => v
  | .reg r => h.regs[r]

/-- The offset of an `<off>` (R75): `IN+i` is 0x2000+i and `OUT+i` is 0x4000+i, not wrapped (assumption 12). -/
def HostAgent.off (h : HostAgent) : HostOff → Nat
  | .num n => n
  | .reg r => r.offset
  | .inBuf i => 0x2000 + (h.val i).toNat
  | .outBuf i => 0x4000 + (h.val i).toNat

/-- Go on to the next statement. -/
def HostAgent.advance (h : HostAgent) : HostAgent := { h with pc := h.pc + 1 }

/-- Write a host register and go on. -/
def HostAgent.set (h : HostAgent) (r : Fin 8) (v : Word) : HostAgent := { h with regs := h.regs.set r v, pc := h.pc + 1 }

/-- Go to a label if a condition holds, else to the next statement. -/
def HostAgent.branch (h : HostAgent) (c : Bool) (label : Nat) : HostAgent :=
  { h with pc := if c then label else h.pc + 1 }

/-- A host store, then the next statement. -/
def State.hostStore (s : State) (off : Nat) (w : Width) (v : Word) : Host.Outcome State Fault Refusal :=
  match s.hostWrite off w v with
  | .ok t => .next { t with host := t.host.advance }
  | .error f => .fault f

/-- A host load into a host register, then the next statement. -/
def State.hostLoad (s : State) (r : Fin 8) (off : Nat) (w : Width) : Host.Outcome State Fault Refusal :=
  match s.hostRead off w with
  | .ok (v, t) => .next { t with host := t.host.set r v }
  | .error f => .fault f

/-- One statement of host assembly (R75). Arithmetic is on 32 bits and wraps. -/
def State.hostStmt (s : State) : HostStmt → Host.Outcome State Fault Refusal
  | .wr32 off val => s.hostStore (s.host.off off) .w32 (s.host.val val)
  | .rd32 r off => s.hostLoad r (s.host.off off) .w32
  | .wr8 off val => s.hostStore (s.host.off off) .w8 (s.host.val val)
  | .rd8 r off => s.hostLoad r (s.host.off off) .w8
  | .add r m val => .next { s with host := s.host.set r (s.host.regs[m] + s.host.val val) }
  | .and r m val => .next { s with host := s.host.set r (s.host.regs[m] &&& s.host.val val) }
  | .shr r m val => .next { s with host := s.host.set r (s.host.regs[m] >>> (s.host.val val).toNat) }
  | .beq r val label => .next { s with host := s.host.branch (s.host.regs[r] == s.host.val val) label }
  | .bne r val label => .next { s with host := s.host.branch (s.host.regs[r] != s.host.val val) label }
  | .jmp label => .next { s with host := s.host.branch true label }
  | .halt => .next { s with host := { s.host with halted := true } }

/-- The host's turn: its next statement. A halted host, and one past the end of its program (assumption 11), does
nothing. -/
def State.hostTurn (s : State) : Host.Outcome State Fault Refusal :=
  if s.host.halted then .next s
  else
    match s.host.prog[s.host.pc]? with
    | none => .next s
    | some st => s.hostStmt st

/-- `exec MNEMONIC` (R76), its first statement at index `base`: write the command word, then poll STATUS until
BUSY = 0. -/
def pseudoExec (base : Nat) (i : Instr) : List HostStmt :=
  [.wr32 (.reg .cmd) (.imm (encode i)), .rd32 7 (.reg .status), .and 7 7 (.imm 1), .bne 7 (.imm 0) (base + 1)]

/-- `wrin i, b0 b1 ... bk` (R76). -/
def pseudoWrin (i : Nat) : List Byte → List HostStmt
  | [] => []
  | b :: bs => .wr8 (.inBuf (.imm (BitVec.ofNat 32 i))) (.imm (b.setWidth 32)) :: pseudoWrin (i + 1) bs

/-- `err hN` (R76). -/
def pseudoErr (h : Fin 8) : List HostStmt :=
  [.rd32 h (.reg .status), .shr h h (.imm 8), .and h h (.imm 0xFF)]

/-- Every label of a program is the index of a statement, or the index just past the last one. -/
def labelsInside (prog : List HostStmt) : Bool :=
  prog.all fun st =>
    match st with
    | .beq _ _ l | .bne _ _ l | .jmp l => l ≤ prog.length
    | .wr32 .. | .rd32 .. | .wr8 .. | .rd8 .. | .add .. | .and .. | .shr .. | .halt => true

end Sys2Proof.Machine
end

