-- ==== Sys2Proof/Machine/Engine.lean ====
section
/-! DEFINITION. The engine's turn (10_state.md R32, 30_encoding.md R73) and the interleaving of the two agents and the reset
event (00_scope.md R18; 20_memory.md R48). -/

namespace Sys2Proof.Machine

/-- `Execute(cfg, w, ...)` and the completion of R32: the dispatch check of R73 first, ILLEGAL_COMMAND if it fails (R74;
60_exceptions.md R136). -/
def State.runWord (s : State) (w : Word) : Host.Outcome State Fault Refusal :=
  match decodeWord w with
  | .ok i => exec i s
  | .error _ => .next (s.raiseError (.illegalCommand w))

/-- The engine's turn: enabled when a command is pending (R32), else nothing happens. -/
def State.engineTurn (s : State) : Host.Outcome State Fault Refusal :=
  match s.pend with
  | none => .next s
  | some w => s.runWord w

/-- One scheduled event. -/
def State.runEvent (s : State) : Event → Host.Outcome State Fault Refusal
  | .engine => s.engineTurn
  | .host => s.hostTurn
  | .reset => .next s.resetEvent
  | .bus addr w op => s.busAccess addr w op

/-- Whose turn it is when nothing is scheduled: the engine's if a command is pending, else the host's (assumption 3). -/
def State.defaultTurn (s : State) : Host.Outcome State Fault Refusal :=
  if s.pend.isSome then s.engineTurn else s.hostTurn

/-- One step of the machine: the next scheduled event, or the default turn. -/
def State.advance (s : State) : Host.Outcome State Fault Refusal :=
  match s.env with
  | [] => s.defaultTurn
  | e :: rest => State.runEvent { s with env := rest } e

/-- s with a command word written to CMD and the engine's turn next (assumption 14). -/
def State.withCommandWord (s : State) (w : Word) : State :=
  { s.issueCommand w with env := .engine :: s.env }

end Sys2Proof.Machine
end

