-- ==== Sys2Proof/Safety.lean ====
section
/-! DEFINITION. The words claims are stated in: what a command's input and output are, what a command may change, what its
operands and results are (10_state.md R25), and the invariant every step keeps. -/

namespace Sys2Proof.Machine

/-- The next state of an outcome, if there is one. -/
def nextState (o : Host.Outcome State Fault Refusal) : Option State :=
  match o with
  | .next t => some t
  | .fault _ => none
  | .refused _ => none

/-- The fault of an outcome, if there is one. -/
def faultOf (o : Host.Outcome State Fault Refusal) : Option Fault :=
  match o with
  | .next _ => none
  | .fault f => some f
  | .refused _ => none

/-! ### Input and output of a command -/

/-- The valid input string is `str`: IN_LEN is its length, within IN_CAP, and IN[0..IN_LEN) is written and holds it
(40_crc.md R78). -/
def State.inputIs (s : State) (str : List Byte) : Prop :=
  s.inLen.toNat = str.length ∧ str.length ≤ s.cfg.inCap ∧ ∀ j, j < str.length → s.inBuf.read j = str[j]?

/-- Every byte of IN[0..IN_LEN) has been written since reset (10_state.md R29). -/
def State.inputWritten (s : State) : Prop := ∀ j, j < s.inLen.toNat → (s.inBuf.read j).isSome

/-- The state after a success that wrote nothing but STATUS (10_state.md R32). -/
def State.completed (s : State) : State := { s with pend := none, busy := false, done := true, err := 0 }

/-- The state after an error with its code and information words: nothing else is written (60_exceptions.md R140). -/
def State.failed (s : State) (code : Byte) (i0 i1 : Word) : State :=
  { s with pend := none, busy := false, done := true, err := code, errInfo0 := i0, errInfo1 := i1 }

/-- From s to t, OUT and OUT_LEN are the only change and the output is `out`: OUT[i] = out[i] below |out|, every other
byte of OUT as before (10_state.md R30). -/
def State.emits (s t : State) (out : List Byte) : Prop :=
  t.outLen.toNat = out.length ∧
    (∀ j, t.outBuf.read j = if j < out.length then out[j]? else s.outBuf.read j) ∧
    t = { s with outBuf := t.outBuf, outLen := t.outLen }

/-- The host has copied the output of t into the input of s (70_reset_and_hazards.md R156): same configuration, IN_LEN is
t's OUT_LEN, within IN_CAP, and IN[0..IN_LEN) is t's OUT[0..OUT_LEN). -/
def State.fedFrom (s t : State) : Prop :=
  s.cfg = t.cfg ∧ s.inLen = t.outLen ∧ t.outLen.toNat ≤ t.cfg.inCap ∧
    ∀ j, j < t.outLen.toNat → s.inBuf.read j = t.outBuf.read j

/-- Two byte strings that differ in exactly one bit: bit k of byte j. -/
def flipBit (f : List Byte) (j : Nat) (k : Fin 8) : List Byte := f.modify j (fun b => b ^^^ (1#8 <<< k.val))

/-! ### The wire, byte by byte (30_encoding.md sections 2 to 5) -/

/-- The 8 bytes of a data-link header (R55, R56). -/
def wireDl (h : DlHeader) : List Byte :=
  [0x05, 0x64, h.len, h.ctrl, h.dest.extractLsb' 0 8, h.dest.extractLsb' 8 8, h.src.extractLsb' 0 8,
    h.src.extractLsb' 8 8]

/-- The byte of a transport header: FIN, FIR, SEQ from bit 7 down (R59). -/
def wireTh (h : ThHeader) : List Byte := [BitVec.ofBool h.fin ++ BitVec.ofBool h.fir ++ h.seq]

/-- The application control byte: FIR, FIN, CON, UNS, SEQ from bit 7 down (R60). -/
def wireControl (h : AhHeader) : Byte :=
  BitVec.ofBool h.fir ++ BitVec.ofBool h.fin ++ BitVec.ofBool h.con ++ BitVec.ofBool h.uns ++ h.seq

/-- A function code whose header carries internal indications (R61). -/
abbrev carriesIin (cfg : Cfg) (fc : Byte) : Prop := cfg.appIin = .resp ∧ (fc = 0x81 ∨ fc = 0x82)

/-- The 2 or 4 bytes of an application header (R60, R61). -/
def wireAh (cfg : Cfg) (h : AhHeader) : List Byte :=
  [wireControl h, h.fc] ++
    if carriesIin cfg h.fc then [h.iin.extractLsb' 0 8, h.iin.extractLsb' 8 8] else []

/-- The n low bytes of a value, least significant first (R64). -/
def wireLe (v : Word) (n : Nat) : List Byte := (List.range n).map fun j => v.extractLsb' (8 * j) 8

/-- A range field of rl bytes (R64). -/
def wireRange (kind : RangeKind) (rl : Nat) (a b : Word) : List Byte :=
  match kind with
  | .none => []
  | .startStop => wireLe a (rl / 2) ++ wireLe b (rl / 2)
  | .count => wireLe a rl

/-- The bytes of an object header (R63). -/
def wireObj (o : ObjHeader) : List Byte :=
  [o.hdr.group, o.hdr.var, o.hdr.qual] ++ wireRange o.kind o.rl o.hdr.a o.hdr.b

/-- An object header the wire can carry: its kind and range length are its qualifier's, its values fit their fields, and
the values its kind does not carry are 0 (41_header_codec.md R98, R110). -/
def canonicalObj (cfg : Cfg) (o : ObjHeader) : Prop :=
  rangeLen cfg o.hdr.qual = some (o.kind, o.rl) ∧
    match o.kind with
    | .none => o.hdr.a = 0 ∧ o.hdr.b = 0
    | .startStop => o.hdr.a.toNat < 2 ^ (8 * (o.rl / 2)) ∧ o.hdr.b.toNat < 2 ^ (8 * (o.rl / 2))
    | .count => o.hdr.a.toNat < 2 ^ (8 * o.rl) ∧ o.hdr.b = 0

/-- The 12-byte object record (42_frame.md R120). -/
def wireRecord (o : ObjHeader) : List Byte :=
  [o.hdr.group, o.hdr.var, o.hdr.qual, BitVec.ofNat 8 (o.kind.code.toNat * 16 + o.rl)] ++ wireLe o.hdr.a 4 ++
    wireLe o.hdr.b 4

/-- The unframed bytes of a data-link header, a transport header, an application header and object headers, in the order
PARSE_FRAME reads them (42_frame.md R119). -/
def wireHeaders (cfg : Cfg) (dl : DlHeader) (th : ThHeader) (ah : AhHeader) (objs : List ObjHeader) : List Byte :=
  wireDl dl ++ wireTh th ++ wireAh cfg ah ++ objs.flatMap wireObj

/-- The unframed READ request of 42_frame.md R116 with its LEN byte: 5 + |user data| (30_encoding.md R57). -/
def wireRead (cfg : Cfg) (src dst : Half) (aseq : BitVec 4) (tseq : BitVec 6) (rs : List ReadRange) : List Byte :=
  let ud :=
    wireTh { fin := true, fir := true, seq := tseq } ++
      wireAh cfg { fir := true, fin := true, con := false, uns := false, seq := aseq, fc := cfg.fcRead, iin := 0 } ++
      rs.flatMap fun r => [r.group, r.var, 0x00, r.start, r.stop]
  wireDl { len := BitVec.ofNat 8 (5 + ud.length), ctrl := cfg.buildDlCtrl, dest := dst, src := src } ++ ud

/-- The range list operand of BUILD_READ (42_frame.md R115). -/
def wireRanges (rs : List ReadRange) : List Byte := rs.flatMap fun r => [r.group, r.var, r.start, r.stop]

/-! ### What a command reads and writes (10_state.md R25) -/

/-- The commands that read IN. -/
def readsIn : Instr → Bool
  | .crc16 | .addCrc | .stripCrc | .unpackDl | .unpackTh | .unpackAh | .unpackOh | .buildRead | .parseFrame => true
  | .packDl | .packTh | .packAh | .packOh | .rangeLen => false

/-- The commands that read IN from IN_OFF on. -/
def readsInOff : Instr → Bool
  | .unpackDl | .unpackTh | .unpackAh | .unpackOh => true
  | .crc16 | .addCrc | .stripCrc | .packDl | .packTh | .packAh | .packOh | .rangeLen | .buildRead | .parseFrame => false

/-- The commands that write OUT and OUT_LEN. -/
def writesOut : Instr → Bool
  | .addCrc | .stripCrc | .packDl | .packTh | .packAh | .packOh | .buildRead | .parseFrame => true
  | .crc16 | .unpackDl | .unpackTh | .unpackAh | .unpackOh | .rangeLen => false

/-- t with every register that command i may write put back to its value in s: the right column of R25's table, and
STATUS, ERR_INFO0 and ERR_INFO1 with PEND. -/
def undoResults (i : Instr) (s t : State) : State :=
  let u := { t with
    pend := s.pend, busy := s.busy, done := s.done, err := s.err, errInfo0 := s.errInfo0, errInfo1 := s.errInfo1 }
  match i with
  | .crc16 => { u with crc := s.crc }
  | .addCrc | .stripCrc | .packDl | .packTh | .packAh | .packOh | .buildRead =>
    { u with outBuf := s.outBuf, outLen := s.outLen }
  | .unpackDl => { u with dl := s.dl, consumed := s.consumed }
  | .unpackTh => { u with th := s.th, consumed := s.consumed }
  | .unpackAh => { u with ah := s.ah, consumed := s.consumed }
  | .unpackOh => { u with oh := s.oh, rlen := s.rlen, consumed := s.consumed }
  | .rangeLen => { u with rlen := s.rlen }
  | .parseFrame =>
    { u with
      dl := s.dl, th := s.th, ah := s.ah, objCount := s.objCount, outBuf := s.outBuf, outLen := s.outLen }

/-- Two states give the same input string to a command that reads IN: bytes at IN_LEN and above do not count
(70_reset_and_hazards.md R156). -/
def sameInput (s t : State) : Prop :=
  s.inLen = t.inLen ∧ ∀ j, j < s.inLen.toNat → s.inBuf.read j = t.inBuf.read j

/-- Two states hold the same operands of command i: the left column of R25's table, and `cfg`. -/
def sameOperands (i : Instr) (s t : State) : Prop :=
  s.cfg = t.cfg ∧
    match i with
    | .crc16 | .addCrc | .stripCrc | .parseFrame => sameInput s t
    | .unpackDl | .unpackTh | .unpackAh | .unpackOh => sameInput s t ∧ s.inOff = t.inOff
    | .packDl => s.dl = t.dl
    | .packTh => s.th = t.th
    | .packAh => s.ah = t.ah
    | .packOh => s.oh = t.oh
    | .rangeLen => s.oh.qual = t.oh.qual
    | .buildRead =>
      sameInput s t ∧ s.dl.dest = t.dl.dest ∧ s.dl.src = t.dl.src ∧ s.th.seq = t.th.seq ∧ s.ah.seq = t.ah.seq

/-- Two states hold the same output string. -/
def sameOutput (s t : State) : Prop :=
  s.outLen = t.outLen ∧ ∀ j, j < s.outLen.toNat → s.outBuf.read j = t.outBuf.read j

/-- Two states hold the same results of command i: the right column of R25's table. -/
def sameResults (i : Instr) (s t : State) : Prop :=
  match i with
  | .crc16 => s.crc = t.crc
  | .addCrc | .stripCrc | .packDl | .packTh | .packAh | .packOh | .buildRead => sameOutput s t
  | .unpackDl => s.dl = t.dl ∧ s.consumed = t.consumed
  | .unpackTh => s.th = t.th ∧ s.consumed = t.consumed
  | .unpackAh => s.ah = t.ah ∧ s.consumed = t.consumed
  | .unpackOh => s.oh = t.oh ∧ s.rlen = t.rlen ∧ s.consumed = t.consumed
  | .rangeLen => s.rlen = t.rlen
  | .parseFrame => s.dl = t.dl ∧ s.th = t.th ∧ s.ah = t.ah ∧ s.objCount = t.objCount ∧ sameOutput s t

/-! ### The host's view -/

/-- Neither a read nor a write of this offset and width is allowed: each is a host fault (20_memory.md R45). -/
def State.accessFaults (s : State) (off : Nat) (w : Width) : Prop :=
  (∃ r, s.hostRead off w = .error (.hostFault r off w)) ∧ ∀ v, ∃ r, s.hostWrite off w v = .error (.hostFault r off w)

/-- The register block: each register's offset and its word, the fields of 10_state.md R22 from bit 31 down with reserved
fields 0. -/
def registerMap (s : State) : List (Nat × Reg × Word) :=
  [(0x00, .cmd, 0),
   (0x04, .status, 0#16 ++ s.err ++ 0#6 ++ BitVec.ofBool s.done ++ BitVec.ofBool s.busy),
   (0x08, .errInfo0, s.errInfo0),
   (0x0C, .errInfo1, s.errInfo1),
   (0x10, .inLen, 0#16 ++ s.inLen),
   (0x14, .outLen, 0#16 ++ s.outLen),
   (0x18, .inOff, 0#16 ++ s.inOff),
   (0x1C, .consumed, 0#16 ++ s.consumed),
   (0x20, .crc, 0#16 ++ s.crc),
   (0x24, .rlen, 0#26 ++ s.rlen.kind ++ s.rlen.len),
   (0x28, .objCount, 0#16 ++ s.objCount),
   (0x30, .dl0, 0#16 ++ s.dl.ctrl ++ s.dl.len),
   (0x34, .dl1, s.dl.src ++ s.dl.dest),
   (0x38, .th, 0#24 ++ BitVec.ofBool s.th.fin ++ BitVec.ofBool s.th.fir ++ s.th.seq),
   (0x3C, .ah, s.ah.iin ++ s.ah.fc ++ BitVec.ofBool s.ah.fir ++ BitVec.ofBool s.ah.fin ++ BitVec.ofBool s.ah.con ++
     BitVec.ofBool s.ah.uns ++ s.ah.seq),
   (0x40, .oh0, 0#8 ++ s.oh.qual ++ s.oh.var ++ s.oh.group),
   (0x44, .ohA, s.oh.a),
   (0x48, .ohB, s.oh.b)]

/-- The RW registers (10_state.md R22). -/
def rwRegs : List Reg := [.inLen, .inOff, .dl0, .dl1, .th, .ah, .oh0, .ohA, .ohB]

/-- The RO registers (10_state.md R22). -/
def roRegs : List Reg := [.status, .errInfo0, .errInfo1, .outLen, .consumed, .crc, .rlen, .objCount]

/-- The bits of a register that are not reserved (10_state.md R22). -/
def fieldMask : Reg → Word
  | .cmd => 0
  | .status => 0x0000FF03
  | .rlen => 0x0000003F
  | .th => 0x000000FF
  | .inLen | .outLen | .inOff | .consumed | .crc | .objCount | .dl0 => 0x0000FFFF
  | .oh0 => 0x00FFFFFF
  | .errInfo0 | .errInfo1 | .dl1 | .ah | .ohA | .ohB => 0xFFFFFFFF

/-! ### The invariant -/

/-- The pairs RLEN takes: 0, and the rows of the two qualifier tables (10_state.md R27; 30_encoding.md R66, R67). -/
def RangeReg.legal (r : RangeReg) : Bool :=
  (r.kind == 0 && r.len == 0) || (r.kind == 1 && (r.len == 2 || r.len == 4 || r.len == 8)) ||
    (r.kind == 2 && (r.len == 1 || r.len == 2 || r.len == 4))

/-- A buffer's canonical form, and every index below the capacity (10_state.md R29, R30). -/
def Memory.inside (m : Memory) (cap : Nat) : Bool := Memory.wf m && m.all (fun c => c.1 < cap)

/-- What holds of every state the machine reaches from reset in a legal configuration. -/
structure State.Inv (s : State) : Prop where
  /-- The configuration is legal (00_scope.md section 4). -/
  cfgLegal : s.cfg.legal = true
  /-- BUSY = 1 exactly when PEND is not idle (10_state.md R31). -/
  busyIffPending : s.busy = s.pend.isSome
  /-- While BUSY = 1, the poll is due, in a configuration that asks for it (70_reset_and_hazards.md R154). -/
  busyPolls : s.busy = true → s.cfg.busyEnd = .atPoll → s.polling = true
  /-- A poll is due only in such a configuration (10_state.md R24, R32). -/
  pollsByConfig : s.polling = true → s.cfg.busyEnd = .atPoll
  /-- While BUSY = 1, DONE and ERR are 0 (10_state.md R26, R32). -/
  busyClears : s.busy = true → s.done = false ∧ s.err = 0
  /-- ERR is 0 or a produced code (60_exceptions.md R128, R137). -/
  errProduced : s.err.toNat ≤ 8
  /-- RLEN is 0 or a row of a qualifier table; KIND is never 3 (10_state.md R27). -/
  rlenLegal : s.rlen.legal = true
  /-- CONSUMED is at most the longest header, 11 bytes (10_state.md R28). -/
  consumedBound : s.consumed.toNat ≤ 11
  /-- IN is canonical and inside IN_CAP. -/
  inputInside : s.inBuf.inside s.cfg.inCap = true
  /-- OUT is canonical and inside OUT_CAP. -/
  outputInside : s.outBuf.inside s.cfg.outCap = true
  /-- OUT_LEN is within OUT_CAP. -/
  outLenBound : s.outLen.toNat ≤ s.cfg.outCap
  /-- Every byte of OUT[0..OUT_LEN) is written (10_state.md R30). -/
  outputWritten : ∀ j, j < s.outLen.toNat → (s.outBuf.read j).isSome

end Sys2Proof.Machine
end

