-- ==== Sys2Proof/Certificates/Slice0/Obligations.lean ====
section
/-! DEFINITION. The statements for the provers, from the numbered rules of spec/. Each is `def Obligations.<Name> : Prop`;
OBLIGATIONS.json lists them. -/

open Sys2Proof Sys2Proof.Machine

/-! ### Encoding and dispatch -/

/-- R71, R72, R73. The decoder and the encoder agree in both directions, on words and on bytes: a word decodes to a command
exactly when it is that command's word, whatever bytes follow it. -/
def Obligations.WordDecodesIffItIsTheCommandsWord : Prop :=
  (∀ (w : Word) (i : Instr), decodeWord w = .ok i ↔ w = encode i) ∧
    ∀ (i : Instr) (rest : List Byte), decodeBytes (encodeBytes i ++ rest) = .ok (i, rest)

/-- R72. The opcode map's 14 rows, by the words of spec/opcode_table.json. -/
def Obligations.OpcodeTableRowsDecode : Prop :=
  decodeTableWord 32 0x00000001 = some .crc16 ∧ decodeTableWord 32 0x00000002 = some .addCrc ∧
  decodeTableWord 32 0x00000003 = some .stripCrc ∧ decodeTableWord 32 0x00000010 = some .packDl ∧
  decodeTableWord 32 0x00000011 = some .unpackDl ∧ decodeTableWord 32 0x00000012 = some .packTh ∧
  decodeTableWord 32 0x00000013 = some .unpackTh ∧ decodeTableWord 32 0x00000014 = some .packAh ∧
  decodeTableWord 32 0x00000015 = some .unpackAh ∧ decodeTableWord 32 0x00000016 = some .packOh ∧
  decodeTableWord 32 0x00000017 = some .unpackOh ∧ decodeTableWord 32 0x00000018 = some .rangeLen ∧
  decodeTableWord 32 0x00000020 = some .buildRead ∧ decodeTableWord 32 0x00000021 = some .parseFrame

/-- R74, R136. A pending word with a bit of [31:8] set, or with an opcode outside the map, decodes to nothing; the
engine's step completes it with ILLEGAL_COMMAND, the word in ERR_INFO0 and 0 in ERR_INFO1, and writes nothing else. The
engine's step is taken when its turn is scheduled, and when nothing is scheduled (the model's default turn, assumption
3). -/
def Obligations.IllegalWordCompletesWithIllegalCommand : Prop :=
  ∀ (s : State) (w : Word), s.pend = some w →
    (w.extractLsb' 8 24 ≠ 0 ∨ (w.setWidth 8).toNat = 0x00 ∨
      (0x04 ≤ (w.setWidth 8).toNat ∧ (w.setWidth 8).toNat ≤ 0x0F) ∨
      (0x19 ≤ (w.setWidth 8).toNat ∧ (w.setWidth 8).toNat ≤ 0x1F) ∨
      (0x22 ≤ (w.setWidth 8).toNat ∧ (w.setWidth 8).toNat ≤ 0xFF)) →
    (∀ i, decodeWord w ≠ .ok i) ∧
    (∀ rest, s.env = .engine :: rest → step s = .next (State.failed { s with env := rest } 0x08 w 0)) ∧
    (s.env = [] → step s = .next (s.failed 0x08 w 0))

/-- R32, R73. A step runs the command its pending word decodes to, and adds nothing around it: by default when nothing is
scheduled, when the engine's turn is scheduled (the schedule's entry is used up), and right after the word was placed. -/
def Obligations.StepRunsTheDecodedCommand : Prop :=
  ∀ (s : State) (w : Word) (i : Instr), decodeWord w = .ok i →
    (s.env = [] → s.pend = some w → step s = exec i s) ∧
    (∀ rest, s.env = .engine :: rest → s.pend = some w → step s = exec i { s with env := rest }) ∧
    step (s.withFetchWord 32 w.toNat) =
      exec i { s with pend := some w, busy := true, done := false, err := 0, polling := mustPoll s.cfg }

/-! ### Each command's result -/

/-- R88. CRC16 writes the checksum of the input to CRC and completes; nothing else changes. -/
def Obligations.Crc16WritesTheChecksum : Prop :=
  ∀ (s : State) (str : List Byte), s.inputIs str →
    exec .crc16 s = .next { s with crc := crc16 s.cfg str, pend := none, busy := false, done := true, err := 0 }

/-- R89. ADD_CRC outputs the input with its CRCs and completes. -/
def Obligations.AddCrcOutputsTheFramedString : Prop :=
  ∀ (s : State) (str : List Byte), s.cfg.legal = true → s.inputIs str →
    ∃ t, exec .addCrc s = .next t ∧ s.completed.emits t (addChecksums s.cfg str)

/-- R90, R85. STRIP_CRC of a framed string outputs the string and completes, under every legal configuration. -/
def Obligations.StripCrcOutputsTheString : Prop :=
  ∀ (s : State) (str : List Byte), s.cfg.legal = true → s.inputIs (addChecksums s.cfg str) →
    ∃ t, exec .stripCrc s = .next t ∧ s.completed.emits t str

/-- R101. PACK_DL outputs the 8 header bytes, LEN as given, and completes. -/
def Obligations.PackDlOutputsTheHeader : Prop :=
  ∀ s : State, 8 ≤ s.cfg.outCap → ∃ t, exec .packDl s = .next t ∧ s.completed.emits t (wireDl s.dl)

/-- R102. UNPACK_DL reads the header at IN_OFF, whatever stands before and after it, sets CONSUMED to 8 and completes. -/
def Obligations.UnpackDlReadsTheHeader : Prop :=
  ∀ (s : State) (p q : List Byte) (h : DlHeader), s.inputIs (p ++ wireDl h ++ q) → s.inOff.toNat = p.length →
    exec .unpackDl s =
      .next { s with dl := h, consumed := 8, pend := none, busy := false, done := true, err := 0 }

/-- R103. PACK_TH outputs the header byte and completes. -/
def Obligations.PackThOutputsTheHeader : Prop :=
  ∀ s : State, 1 ≤ s.cfg.outCap → ∃ t, exec .packTh s = .next t ∧ s.completed.emits t (wireTh s.th)

/-- R104. UNPACK_TH reads the header byte at IN_OFF, sets CONSUMED to 1 and completes; every byte value decodes. -/
def Obligations.UnpackThReadsTheHeader : Prop :=
  ∀ (s : State) (p q : List Byte) (b : Byte), s.inputIs (p ++ b :: q) → s.inOff.toNat = p.length →
    ∃ h, wireTh h = [b] ∧
      exec .unpackTh s =
        .next { s with th := h, consumed := 1, pend := none, busy := false, done := true, err := 0 }

/-- R105. PACK_AH outputs 2 bytes, or 4 with the IIN field where the configuration and the function code ask for it, and
completes, for every OUT_CAP that holds them. -/
def Obligations.PackAhOutputsTheHeader : Prop :=
  ∀ s : State, (wireAh s.cfg s.ah).length ≤ s.cfg.outCap → ∃ t, exec .packAh s = .next t ∧ s.completed.emits t (wireAh s.cfg s.ah)

/-- R106. UNPACK_AH reads the header at IN_OFF, IIN 0 where the header carries none, sets CONSUMED to 2 or 4 and
completes. -/
def Obligations.UnpackAhReadsTheHeader : Prop :=
  ∀ (s : State) (p q : List Byte) (h : AhHeader), s.inputIs (p ++ wireAh s.cfg h ++ q) → s.inOff.toNat = p.length →
    (carriesIin s.cfg h.fc →
      exec .unpackAh s =
        .next { s with ah := h, consumed := 4, pend := none, busy := false, done := true, err := 0 }) ∧
    (¬ carriesIin s.cfg h.fc →
      exec .unpackAh s =
        .next { s with
          ah := { h with iin := 0 }, consumed := 2, pend := none, busy := false, done := true, err := 0 })

/-- R107. PACK_OH outputs the header with the range field its qualifier selects and completes: for a start/stop range
both values, for a count OH_A alone, for no range neither. A value that the kind ignores may be anything. OUT_CAP holds
the header's 3 + RL bytes. -/
def Obligations.PackOhOutputsTheHeader : Prop :=
  ∀ (s : State) (kind : RangeKind) (rl : Nat), rangeLen s.cfg s.oh.qual = some (kind, rl) →
    (kind = .startStop → s.oh.a.toNat < 2 ^ (8 * (rl / 2)) ∧ s.oh.b.toNat < 2 ^ (8 * (rl / 2))) →
    (kind = .count → s.oh.a.toNat < 2 ^ (8 * rl)) → 3 + rl ≤ s.cfg.outCap →
    ∃ t, exec .packOh s = .next t ∧ s.completed.emits t (wireObj { hdr := s.oh, kind := kind, rl := rl })

/-- R108. UNPACK_OH reads the header at IN_OFF, sets RLEN to its range's kind and length, CONSUMED to 3 plus that length,
and completes. -/
def Obligations.UnpackOhReadsTheHeader : Prop :=
  ∀ (s : State) (p q : List Byte) (o : ObjHeader), canonicalObj s.cfg o → s.inputIs (p ++ wireObj o ++ q) →
    s.inOff.toNat = p.length →
    exec .unpackOh s =
      .next { s with
        oh := o.hdr, rlen := { len := BitVec.ofNat 4 o.rl, kind := o.kind.code }, consumed := BitVec.ofNat 16 (3 + o.rl),
        pend := none, busy := false, done := true, err := 0 }

/-- R109. RANGE_LEN sets RLEN to the kind and the length its qualifier selects and completes. -/
def Obligations.RangeLenWritesKindAndLength : Prop :=
  ∀ (s : State) (kind : RangeKind) (rl : Nat), rangeLen s.cfg s.oh.qual = some (kind, rl) →
    exec .rangeLen s =
      .next { s with
        rlen := { len := BitVec.ofNat 4 rl, kind := kind.code }, pend := none, busy := false, done := true, err := 0 }

/-- R116, R117, R118. BUILD_READ of up to 49 ranges outputs the framed READ request and completes: the data-link header
with LEN = 5 + |user data|, the transport byte with FIN = FIR = 1, the application header with FIR = FIN = 1, and one
object header with qualifier 0x00 per range, in order; for every OUT_CAP that holds the frame. -/
def Obligations.BuildReadOutputsTheFramedRequest : Prop :=
  ∀ (s : State) (rs : List ReadRange), rs.length ≤ 49 → s.inputIs (wireRanges rs) →
    let out := frameEncode s.cfg (wireRead s.cfg s.dl.src s.dl.dest s.ah.seq s.th.seq rs)
    out.length ≤ s.cfg.outCap → ∃ t, exec .buildRead s = .next t ∧ s.completed.emits t out

/-- R119, R120, R121. PARSE_FRAME of any frame made of a data-link header, a transport header, an application header and
object headers completes, writes the three headers, the number of object headers and one 12-byte record for each, in
order. LEN, CTRL, FIN, FIR, FC and the sequences are not checked (R122). -/
def Obligations.ParseFrameReadsEveryFrame : Prop :=
  ∀ (s : State) (dl : DlHeader) (th : ThHeader) (ah : AhHeader) (objs : List ObjHeader), s.cfg.legal = true →
    (∀ o ∈ objs, canonicalObj s.cfg o) → (¬ carriesIin s.cfg ah.fc → ah.iin = 0) →
    s.inputIs (frameEncode s.cfg (wireHeaders s.cfg dl th ah objs)) →
    ∃ t, exec .parseFrame s = .next t ∧
      State.emits { s.completed with dl := dl, th := th, ah := ah, objCount := BitVec.ofNat 16 objs.length } t
        (objs.flatMap wireRecord)

/-! ### The qualifier tables -/

/-- R111, R66. Under DOC, RANGE_LEN gives each of the seven documented buckets its length and kind and rejects the eighth,
and UNPACK_OH of a header cut one byte short raises TRUNCATED_HEADER. -/
def Obligations.DocQualifierBuckets : Prop :=
  ∀ (s : State), s.cfg.qualMap = .doc →
    (∀ m rl kind, (m, rl, kind) ∈ [((0x00 : Byte), 2, (1 : BitVec 2)), (0x10, 4, 1), (0x20, 8, 1), (0x30, 1, 2),
        (0x40, 2, 2), (0x50, 4, 2), (0x60, 0, 0)] →
      (s.oh.qual &&& 0x70 = m →
        exec .rangeLen s =
          .next { s with
            rlen := { len := BitVec.ofNat 4 rl, kind := kind }, pend := none, busy := false, done := true, err := 0 }) ∧
      (∀ (g v q : Byte) (r : List Byte), q &&& 0x70 = m → r.length = rl → s.inputIs ([g, v, q] ++ r).dropLast →
        s.inOff = 0 → ∃ i0 i1, exec .unpackOh s = .next (s.failed 0x02 i0 i1))) ∧
    (s.oh.qual &&& 0x70 = 0x70 → exec .rangeLen s = .next (s.failed 0x06 0 (s.oh.qual.setWidth 32)))

/-- R67. Under STD, RANGE_LEN follows the IEEE 1815 range-specifier table: eleven codes with their length and kind, five
reserved codes rejected; q[7:4] do not matter. -/
def Obligations.StdQualifierTable : Prop :=
  ∀ (s : State), s.cfg.qualMap = .std →
    (∀ r rl kind, (r, rl, kind) ∈ [((0x00 : Byte), 2, (1 : BitVec 2)), (0x01, 4, 1), (0x02, 8, 1), (0x03, 2, 1),
        (0x04, 4, 1), (0x05, 8, 1), (0x06, 0, 0), (0x07, 1, 2), (0x08, 2, 2), (0x09, 4, 2), (0x0B, 1, 2)] →
      s.oh.qual &&& 0x0F = r →
        exec .rangeLen s =
          .next { s with
            rlen := { len := BitVec.ofNat 4 rl, kind := kind }, pend := none, busy := false, done := true, err := 0 }) ∧
    (s.oh.qual &&& 0x0F ∈ [(0x0A : Byte), 0x0C, 0x0D, 0x0E, 0x0F] →
      exec .rangeLen s = .next (s.failed 0x06 0 (s.oh.qual.setWidth 32)))

/-! ### Errors -/

/-- R78, R135. IN_LEN above IN_CAP raises PROGRAMMER_ERROR(1, IN_LEN) from every command that reads IN. -/
def Obligations.InputLongerThanBufferRaises : Prop :=
  ∀ (i : Instr) (s : State), readsIn i = true → s.cfg.inCap < s.inLen.toNat →
    exec i s = .next (s.failed 0x07 1 (s.inLen.setWidth 32))

/-- R16, R29, R78. A command that reads IN faults the model at the first unwritten byte of IN[0..IN_LEN), with no state
after it. -/
def Obligations.UnwrittenInputFaultsTheModel : Prop :=
  ∀ (i : Instr) (s : State) (j : Nat), readsIn i = true → s.inLen.toNat ≤ s.cfg.inCap → j < s.inLen.toNat →
    s.inBuf.read j = none → (∀ k, k < j → (s.inBuf.read k).isSome) → exec i s = .fault (.unwrittenInput j)

/-- R100, R135. IN_OFF above IN_LEN raises PROGRAMMER_ERROR(2, IN_OFF) from every UNPACK command. -/
def Obligations.OffsetBeyondInputRaises : Prop :=
  ∀ (i : Instr) (s : State) (str : List Byte), readsInOff i = true → s.inputIs str → str.length < s.inOff.toNat →
    exec i s = .next (s.failed 0x07 2 (s.inOff.setWidth 32))

/-- R91, R130. A header cut short raises TRUNCATED_HEADER(offset, kind, bytes needed, bytes available): 8 bytes for a
data-link header, 1 for a transport header, 2 or 4 for an application header, 3 and then 3 + RL for an object header.
From the UNPACK commands the offset is IN_OFF. From PARSE_FRAME (R119, R142) it is the offset in the unframed frame of the
object header that is cut, whatever object headers come before it, or 9 for an application header whose IIN is cut. -/
def Obligations.CutHeaderRaisesTruncatedHeader : Prop :=
  ∀ s : State,
    (∀ str : List Byte, s.inputIs str → s.inOff.toNat ≤ str.length →
      let o := s.inOff.toNat
      let avail := str.length - o
      (avail < 8 → exec .unpackDl s = .next (s.failed 0x02 (s.inOff.setWidth 32)
        (BitVec.ofNat 32 (1 + 8 * 256 + avail * 65536)))) ∧
      (avail < 1 → exec .unpackTh s = .next (s.failed 0x02 (s.inOff.setWidth 32)
        (BitVec.ofNat 32 (2 + 1 * 256 + avail * 65536)))) ∧
      (avail < 2 → exec .unpackAh s = .next (s.failed 0x02 (s.inOff.setWidth 32)
        (BitVec.ofNat 32 (3 + 2 * 256 + avail * 65536)))) ∧
      (2 ≤ avail → avail < 4 → carriesIin s.cfg (str.getD (o + 1) 0) →
        exec .unpackAh s = .next (s.failed 0x02 (s.inOff.setWidth 32)
          (BitVec.ofNat 32 (3 + 4 * 256 + avail * 65536)))) ∧
      (avail < 3 → exec .unpackOh s = .next (s.failed 0x02 (s.inOff.setWidth 32)
        (BitVec.ofNat 32 (4 + 3 * 256 + avail * 65536)))) ∧
      (∀ kind rl, 3 ≤ avail → rangeLen s.cfg (str.getD (o + 2) 0) = some (kind, rl) → avail < 3 + rl →
        exec .unpackOh s = .next (s.failed 0x02 (s.inOff.setWidth 32)
          (BitVec.ofNat 32 (4 + (3 + rl) * 256 + avail * 65536))))) ∧
    (∀ (dl : DlHeader) (th : ThHeader) (ah : AhHeader) (objs : List ObjHeader) (tail : List Byte),
      (∀ o ∈ objs, canonicalObj s.cfg o) →
      s.inputIs (frameEncode s.cfg (wireHeaders s.cfg dl th ah objs ++ tail)) →
      let pos := BitVec.ofNat 32 (wireHeaders s.cfg dl th ah objs).length
      (1 ≤ tail.length → tail.length < 3 →
        exec .parseFrame s = .next (s.failed 0x02 pos (BitVec.ofNat 32 (4 + 3 * 256 + tail.length * 65536)))) ∧
      (∀ kind rl, 3 ≤ tail.length → rangeLen s.cfg (tail.getD 2 0) = some (kind, rl) → tail.length < 3 + rl →
        exec .parseFrame s = .next (s.failed 0x02 pos
          (BitVec.ofNat 32 (4 + (3 + rl) * 256 + tail.length * 65536))))) ∧
    (∀ (dl : DlHeader) (th : ThHeader) (ah : AhHeader) (r : List Byte), carriesIin s.cfg ah.fc → r.length < 2 →
      s.inputIs (frameEncode s.cfg (wireDl dl ++ wireTh th ++ [wireControl ah, ah.fc] ++ r)) →
      exec .parseFrame s = .next (s.failed 0x02 9 (BitVec.ofNat 32 (3 + 4 * 256 + (2 + r.length) * 65536))))

/-- R93, R132, R119. UNPACK_DL of 8 or more bytes that do not begin 05 64 raises BAD_START_BYTES with IN_OFF and the two
bytes, and PARSE_FRAME of a frame of 11 or more unframed bytes that do not begin so raises it with offset 0, whatever
follows. -/
def Obligations.WrongStartBytesRaise : Prop :=
  ∀ (s : State) (q : List Byte) (b0 b1 : Byte), ¬ (b0 = 0x05 ∧ b1 = 0x64) →
    (∀ p : List Byte, s.inputIs (p ++ b0 :: b1 :: q) → s.inOff.toNat = p.length → 6 ≤ q.length →
      exec .unpackDl s =
        .next (s.failed 0x04 (s.inOff.setWidth 32) (BitVec.ofNat 32 (b0.toNat + b1.toNat * 256)))) ∧
    (9 ≤ q.length → s.inputIs (frameEncode s.cfg (b0 :: b1 :: q)) →
      exec .parseFrame s = .next (s.failed 0x04 0 (BitVec.ofNat 32 (b0.toNat + b1.toNat * 256))))

/-- R134, R107, R108, R109, R119. A qualifier outside the table in use raises UNSUPPORTED_QUALIFIER: with offset 0 from
PACK_OH and RANGE_LEN, with IN_OFF from UNPACK_OH, and from PARSE_FRAME with the object header's offset in the unframed
frame, whatever object headers come before it and whatever bytes follow. -/
def Obligations.UnknownQualifierRaises : Prop :=
  ∀ s : State,
    (rangeLen s.cfg s.oh.qual = none →
      exec .packOh s = .next (s.failed 0x06 0 (s.oh.qual.setWidth 32)) ∧
      exec .rangeLen s = .next (s.failed 0x06 0 (s.oh.qual.setWidth 32))) ∧
    (∀ (g v q : Byte) (r : List Byte), rangeLen s.cfg q = none →
      (∀ p : List Byte, s.inputIs (p ++ g :: v :: q :: r) → s.inOff.toNat = p.length →
        exec .unpackOh s = .next (s.failed 0x06 (s.inOff.setWidth 32) (q.setWidth 32))) ∧
      (∀ (dl : DlHeader) (th : ThHeader) (ah : AhHeader) (objs : List ObjHeader),
        (∀ o ∈ objs, canonicalObj s.cfg o) →
        s.inputIs (frameEncode s.cfg (wireHeaders s.cfg dl th ah objs ++ g :: v :: q :: r)) →
        exec .parseFrame s = .next (s.failed 0x06
          (BitVec.ofNat 32 (wireHeaders s.cfg dl th ah objs).length) (q.setWidth 32))))

/-- R98, R107, R135. A range value too wide for its field raises PROGRAMMER_ERROR(4, offset of the register) from PACK_OH,
OH_A before OH_B; OH_B of a count is not looked at. -/
def Obligations.WideRangeValueRaises : Prop :=
  ∀ (s : State) (rl : Nat),
    (rangeLen s.cfg s.oh.qual = some (.startStop, rl) → 2 ^ (8 * (rl / 2)) ≤ s.oh.a.toNat →
      exec .packOh s = .next (s.failed 0x07 4 0x44)) ∧
    (rangeLen s.cfg s.oh.qual = some (.startStop, rl) → s.oh.a.toNat < 2 ^ (8 * (rl / 2)) →
      2 ^ (8 * (rl / 2)) ≤ s.oh.b.toNat → exec .packOh s = .next (s.failed 0x07 4 0x48)) ∧
    (rangeLen s.cfg s.oh.qual = some (.count, rl) → 2 ^ (8 * rl) ≤ s.oh.a.toNat →
      exec .packOh s = .next (s.failed 0x07 4 0x44))

/-- R84, R90, R129, R133. After k good full blocks, STRIP_CRC reports the first failure: a full or a short block whose CRC
differs gives CHECKSUM_MISMATCH with block index k, the expected CRC low and the received CRC high; a tail of 1 or 2
bytes gives TRUNCATED_BLOCK with its length. -/
def Obligations.StripCrcReportsTheFirstFailure : Prop :=
  ∀ (s : State) (good : List Byte) (k : Nat), good.length = 16 * k →
    (∀ (blk rest : List Byte) (lo hi : Byte), blk.length = 16 →
      s.inputIs (addChecksums s.cfg good ++ blk ++ [lo, hi] ++ rest) → crc16 s.cfg blk ≠ hi ++ lo →
      exec .stripCrc s = .next (s.failed 0x01 (BitVec.ofNat 32 k) (hi ++ lo ++ crc16 s.cfg blk))) ∧
    (∀ (blk : List Byte) (lo hi : Byte), 1 ≤ blk.length → blk.length ≤ 15 →
      s.inputIs (addChecksums s.cfg good ++ blk ++ [lo, hi]) → crc16 s.cfg blk ≠ hi ++ lo →
      exec .stripCrc s = .next (s.failed 0x01 (BitVec.ofNat 32 k) (hi ++ lo ++ crc16 s.cfg blk))) ∧
    (∀ tail : List Byte, 1 ≤ tail.length → tail.length ≤ 2 → s.inputIs (addChecksums s.cfg good ++ tail) →
      exec .stripCrc s = .next (s.failed 0x05 (BitVec.ofNat 32 k) (BitVec.ofNat 32 tail.length)))

/-- R115, R116, R117, R135. BUILD_READ raises PROGRAMMER_ERROR(6, IN_LEN) for a list that is not a multiple of 4 bytes, and
PROGRAMMER_ERROR(5, LEN) for 50 ranges or more, with LEN = 8 + 5k, and 2 more with an IIN field. -/
def Obligations.BuildReadRejectsBadLists : Prop :=
  ∀ (s : State) (str : List Byte), s.inputIs str →
    (str.length % 4 ≠ 0 → exec .buildRead s = .next (s.failed 0x07 6 (s.inLen.setWidth 32))) ∧
    (∀ k, str.length = 4 * k → 50 ≤ k →
      exec .buildRead s = .next (s.failed 0x07 5
        (BitVec.ofNat 32 (8 + 5 * k + if carriesIin s.cfg s.cfg.fcRead then 2 else 0))))

/-- R113, R119, R131. PARSE_FRAME of a framed string whose unframed form is shorter than 11 bytes raises
FRAME_TOO_SHORT(length, 11); under SEPARATE a framed string shorter than 10 bytes raises FRAME_TOO_SHORT(length, 10)
whatever its bytes. -/
def Obligations.ShortFrameRaises : Prop :=
  ∀ s : State,
    (∀ u : List Byte, u.length < 11 → (s.cfg.hdrBlock = .separate → 8 ≤ u.length) → s.inputIs (frameEncode s.cfg u) →
      exec .parseFrame s = .next (s.failed 0x03 (BitVec.ofNat 32 u.length) 11)) ∧
    (∀ f : List Byte, s.cfg.hdrBlock = .separate → f.length < 10 → s.inputIs f →
      exec .parseFrame s = .next (s.failed 0x03 (BitVec.ofNat 32 f.length) 10))

/-- R79, R135. An output longer than OUT_CAP raises PROGRAMMER_ERROR(3, length), from each of the eight commands that
write OUT, and leaves OUT as it was. R79, R101 and 00_scope.md R13 say that the capacity constraint rules this out; the
model follows the pseudocode of R79 (assumption 18), so PACK_DL, a PACK_AH of 4 bytes, a PACK_OH of more than 3 bytes and
BUILD_READ overflow in a legal configuration with a small OUT_CAP. ADD_CRC, STRIP_CRC, PACK_TH (1 byte), a PACK_AH of 2
bytes, a PACK_OH of 3 bytes and PARSE_FRAME overflow only in an illegal one (assumption 9). -/
def Obligations.OutputLongerThanBufferRaises : Prop :=
  ∀ s : State,
    (s.cfg.outCap < 8 → exec .packDl s = .next (s.failed 0x07 3 8)) ∧
    (s.cfg.outCap < 1 → exec .packTh s = .next (s.failed 0x07 3 1)) ∧
    (s.cfg.outCap < (wireAh s.cfg s.ah).length →
      exec .packAh s = .next (s.failed 0x07 3 (if carriesIin s.cfg s.ah.fc then 4 else 2))) ∧
    (∀ kind rl, rangeLen s.cfg s.oh.qual = some (kind, rl) →
      (kind = .startStop → s.oh.a.toNat < 2 ^ (8 * (rl / 2)) ∧ s.oh.b.toNat < 2 ^ (8 * (rl / 2))) →
      (kind = .count → s.oh.a.toNat < 2 ^ (8 * rl)) → s.cfg.outCap < 3 + rl →
      exec .packOh s = .next (s.failed 0x07 3 (BitVec.ofNat 32 (3 + rl)))) ∧
    (∀ str : List Byte, s.inputIs str → s.cfg.outCap < (addChecksums s.cfg str).length →
      exec .addCrc s = .next (s.failed 0x07 3 (BitVec.ofNat 32 (addChecksums s.cfg str).length))) ∧
    (∀ str : List Byte, s.inputIs (addChecksums s.cfg str) → s.cfg.outCap < str.length →
      exec .stripCrc s = .next (s.failed 0x07 3 (BitVec.ofNat 32 str.length))) ∧
    (∀ rs : List ReadRange, rs.length ≤ 49 → s.inputIs (wireRanges rs) →
      let out := frameEncode s.cfg (wireRead s.cfg s.dl.src s.dl.dest s.ah.seq s.th.seq rs)
      s.cfg.outCap < out.length → exec .buildRead s = .next (s.failed 0x07 3 (BitVec.ofNat 32 out.length))) ∧
    (∀ (dl : DlHeader) (th : ThHeader) (ah : AhHeader) (objs : List ObjHeader), (∀ o ∈ objs, canonicalObj s.cfg o) →
      s.inputIs (frameEncode s.cfg (wireHeaders s.cfg dl th ah objs)) → s.cfg.outCap < 12 * objs.length →
      exec .parseFrame s = .next (s.failed 0x07 3 (BitVec.ofNat 32 (12 * objs.length))))

/-! ### What every command does, and does not do -/

/-- R25. The frame of every command: from s to the state it completes in, only its result registers (the right column of
R25's table), STATUS, ERR_INFO0, ERR_INFO1 and PEND can differ. CRC16: CRC. ADD_CRC, STRIP_CRC, the PACK commands and
BUILD_READ: OUT, OUT_LEN. UNPACK_DL: DL0, DL1, CONSUMED. UNPACK_TH: TH, CONSUMED. UNPACK_AH: AH, CONSUMED. UNPACK_OH: OH0,
OH_A, OH_B, RLEN, CONSUMED. RANGE_LEN: RLEN. PARSE_FRAME: DL0, DL1, TH, AH, OBJ_COUNT, OUT, OUT_LEN. -/
def Obligations.CommandsWriteOnlyTheirResults : Prop :=
  ∀ (i : Instr) (s t : State), exec i s = .next t → undoResults i s t = s

/-- R30. The bytes of OUT a successful command stores to are OUT[0..OUT_LEN), all written afterwards; every byte at
OUT_LEN and above reads as before. A command that stores nothing, and one that raises, leaves every byte of OUT as it
was; no command changes a byte of IN. -/
def Obligations.CommandsStoreOnlyTheOutput : Prop :=
  ∀ (i : Instr) (s t : State), s.cfg.legal = true → exec i s = .next t →
    t.inBuf = s.inBuf ∧
    (writesOut i = true → t.err = 0 →
      (∀ j, j < t.outLen.toNat → (t.outBuf.read j).isSome) ∧
      ∀ j, t.outLen.toNat ≤ j → t.outBuf.read j = s.outBuf.read j) ∧
    (writesOut i = false ∨ t.err ≠ 0 → ∀ j, t.outBuf.read j = s.outBuf.read j)

/-- R140. Errors are precise: a command that raises writes no register but STATUS, ERR_INFO0 and ERR_INFO1 and no byte of
OUT, and a successful command leaves ERR_INFO0 and ERR_INFO1 unchanged. -/
def Obligations.ErrorsArePrecise : Prop :=
  ∀ (i : Instr) (s t : State), exec i s = .next t →
    (t.err ≠ 0 → t = s.failed t.err t.errInfo0 t.errInfo1) ∧
    (t.err = 0 → t.errInfo0 = s.errInfo0 ∧ t.errInfo1 = s.errInfo1)

/-- R127, R128, R32. Every command whose input is written completes, with PEND idle, BUSY clear, DONE set and ERR 0 or one
of the codes 1 to 7; a command that reads no input always completes. -/
def Obligations.EveryCommandCompletes : Prop :=
  ∀ (i : Instr) (s : State), (readsIn i = true → s.inputWritten) →
    ∃ t, exec i s = .next t ∧ t.pend = none ∧ t.busy = false ∧ t.done = true ∧ t.err.toNat ≤ 7

/-- R18, R20, R25, R156. A command's outcome is a function of its operands and the configuration alone: two states that
agree on them (bytes of IN at IN_LEN and above do not count) complete with the same ERR, and with the same results if
it is 0 and the same information words if not. (With s and s' exchanged: if one completes, so does the other.) -/
def Obligations.ResultsDependOnOperandsOnly : Prop :=
  ∀ (i : Instr) (s s' t : State), sameOperands i s s' → exec i s = .next t →
    ∃ t', exec i s' = .next t' ∧ t'.err = t.err ∧ (t.err = 0 → sameResults i t t') ∧
      (t.err ≠ 0 → t'.errInfo0 = t.errInfo0 ∧ t'.errInfo1 = t.errInfo1)

/-- R13, R79. In a legal configuration whose OUT_CAP also holds the longest BUILD_READ frame (292 bytes), no command raises
OUT_OVERFLOW. (R13 says so of every legal configuration; for capacities too small for a header or a request it is not
so: assumption 18.) -/
def Obligations.NoOutputOverflow : Prop :=
  ∀ (i : Instr) (s t : State), s.cfg.legal = true → 292 ≤ s.cfg.outCap → exec i s = .next t →
    ¬ (t.err = 0x07 ∧ t.errInfo0 = 3)

/-- R19, R150. No step changes the configuration. -/
def Obligations.NoStepChangesTheConfiguration : Prop :=
  ∀ s t : State, step s = .next t → t.cfg = s.cfg

/-- R31, R26, R27, R28, R30, R154. The invariant holds at reset. -/
def Obligations.ResetStateSatisfiesInv : Prop := State.reset.Inv

/-- R31, R26, R27, R28, R29, R30, R154. Every step of either agent, of a bus access and of reset keeps the invariant: BUSY
says whether a command is pending, DONE and ERR are 0 meanwhile, the poll of R154 is due meanwhile where the configuration
asks for it and never where it does not (assumption 27), ERR is a produced code, RLEN is a row of a qualifier table, the
buffers are canonical and inside their capacities, and OUT[0..OUT_LEN) is written. -/
def Obligations.EveryStepKeepsInv : Prop :=
  ∀ s t : State, s.Inv → step s = .next t → t.Inv

/-! ### The checksum -/

/-- R82, R83. The blocks of a string are its consecutive 16-byte pieces, ceil(|s|/16) of them, the last of 1 to 16 bytes; the
framed string is each block with its CRC, low byte first, and is 2 bytes longer for each block. -/
def Obligations.FramedStringIsBlocksWithCrcs : Prop :=
  ∀ (cfg : Cfg) (s : List Byte),
    (chunk s).length = (s.length + 15) / 16 ∧ (chunk s).flatten = s ∧
    (∀ j, j < (chunk s).length → (chunk s)[j]? = some ((s.drop (16 * j)).take 16)) ∧
    (∀ b ∈ chunk s, 1 ≤ b.length ∧ b.length ≤ 16) ∧ (∀ b ∈ (chunk s).dropLast, b.length = 16) ∧ chunk [] = [] ∧
    addChecksums cfg s = (chunk s).flatMap (fun b => b ++ [(crc16 cfg b).extractLsb' 0 8, (crc16 cfg b).extractLsb' 8 8]) ∧
    (addChecksums cfg s).length = s.length + 2 * ((s.length + 15) / 16)

/-- R85. Round trip: stripping the checksums of a framed string gives the string, for every length and configuration. -/
def Obligations.StripInvertsAddChecksums : Prop :=
  ∀ (cfg : Cfg) (s : List Byte), stripAndVerify cfg (addChecksums cfg s) 0 = .ok s

/-- R86. Single-bit corruption: flipping one bit of a framed string that is accepted makes it raise CHECKSUM_MISMATCH, for
every P_POLY other than 0 and every P_XOROUT. A flip inside a block's data changes its recomputed CRC, for a block of
any length; a flip inside its CRC changes the received one; neither changes the length. -/
def Obligations.SingleBitFlipIsDetected : Prop :=
  ∀ (cfg : Cfg) (k0 : Nat) (f str : List Byte) (j : Nat) (k : Fin 8), cfg.poly ≠ 0 → j < f.length →
    (stripAndVerify cfg f k0 = .ok str →
      ∃ b ex rx, stripAndVerify cfg (flipBit f j k) k0 = .error (.checksumMismatch b ex rx)) ∧
    crc16 cfg (flipBit f j k) ≠ crc16 cfg f ∧
    (f.length = 2 → halfAt (flipBit f j k) 0 ≠ halfAt f 0) ∧
    (flipBit f j k).length = f.length

/-- R87, R80, R81. Arithmetic of the CRC: one byte is XORed into the low byte of the accumulator and followed by 8
iterations, each a right shift and then, if the bit shifted out was 1, an XOR with P_POLY; a string's accumulator starts
at 0, takes its bytes in order, and is XORed with P_XOROUT at the end. So the CRC of the empty string is P_XOROUT; leading
zero bytes do not change a CRC; the CRC of [0x80] is P_POLY XOR P_XOROUT; with P_XOROUT = 0 the CRC is linear, and an
all-zero block with CRC 00 00 verifies. -/
def Obligations.CrcArithmeticLaws : Prop :=
  ∀ cfg : Cfg,
    (∀ (acc : Half) (b : Byte), crcUpdate cfg.poly acc b =
      (fun a : Half => if a.getLsbD 0 then (a >>> 1) ^^^ cfg.poly else a >>> 1)^[8] (acc ^^^ b.setWidth 16)) ∧
    crc16 cfg [] = cfg.xorout ∧
    (∀ (s : List Byte) (b : Byte),
      crc16 cfg (s ++ [b]) = crcUpdate cfg.poly (crc16 cfg s ^^^ cfg.xorout) b ^^^ cfg.xorout) ∧
    crc16 cfg [0x80] = cfg.poly ^^^ cfg.xorout ∧
    (∀ (n : Nat) (s : List Byte), crc16 cfg (List.replicate n 0x00 ++ s) = crc16 cfg s) ∧
    (cfg.xorout = 0 → ∀ a b : List Byte, a.length = b.length →
      crc16 cfg (List.zipWith (· ^^^ ·) a b) = crc16 cfg a ^^^ crc16 cfg b) ∧
    (cfg.xorout = 0 → ∀ n, 1 ≤ n → n ≤ 16 →
      stripAndVerify cfg (List.replicate n 0x00 ++ [0x00, 0x00]) 0 = .ok (List.replicate n 0x00))

/-- R112, R113, R114. The framed frame: under FLAT the framed string of the whole, n + 2·ceil(n/16) bytes; under SEPARATE that
of the first 8 bytes and then that of the rest, 10 + (n-8) + 2·ceil((n-8)/16) bytes. Decoding it gives the frame back. -/
def Obligations.FramedLengths : Prop :=
  ∀ (cfg : Cfg) (u : List Byte),
    (cfg.hdrBlock = .flat →
      frameEncode cfg u = addChecksums cfg u ∧
      (frameEncode cfg u).length = u.length + 2 * ((u.length + 15) / 16) ∧
      frameDecode cfg (frameEncode cfg u) = .ok u) ∧
    (cfg.hdrBlock = .separate → 8 ≤ u.length →
      frameEncode cfg u = addChecksums cfg (u.take 8) ++ addChecksums cfg (u.drop 8) ∧
      (frameEncode cfg u).length = 10 + (u.length - 8) + 2 * ((u.length - 8 + 15) / 16) ∧
      frameDecode cfg (frameEncode cfg u) = .ok u)

/-! ### Frames and headers, end to end -/

/-- R110. Header round trip: a PACK of the field registers, its output copied into IN, and the matching UNPACK at
IN_OFF = 0 restore every field, with CONSUMED the packed length; for an object header that PACK_OH accepts and whose
unused values are 0; AH.IIN only where the header carries it, and 0 otherwise. -/
def Obligations.UnpackRestoresWhatPackWrote : Prop :=
  ∀ (s t s' : State), s'.fedFrom t → s'.inOff = 0 →
    (exec .packDl s = .next t → t.err = 0 →
      exec .unpackDl s' = .next { s'.completed with dl := s.dl, consumed := t.outLen }) ∧
    (exec .packTh s = .next t → t.err = 0 →
      exec .unpackTh s' = .next { s'.completed with th := s.th, consumed := t.outLen }) ∧
    (exec .packAh s = .next t → t.err = 0 → carriesIin s.cfg s.ah.fc →
      exec .unpackAh s' = .next { s'.completed with ah := s.ah, consumed := t.outLen }) ∧
    (exec .packAh s = .next t → t.err = 0 → ¬ carriesIin s.cfg s.ah.fc →
      exec .unpackAh s' = .next { s'.completed with ah := { s.ah with iin := 0 }, consumed := t.outLen }) ∧
    (∀ kind rl, exec .packOh s = .next t → t.err = 0 → rangeLen s.cfg s.oh.qual = some (kind, rl) →
      (kind = .count → s.oh.b = 0) → (kind = .none → s.oh.a = 0 ∧ s.oh.b = 0) →
      exec .unpackOh s' = .next { s'.completed with
        oh := s.oh, rlen := { len := BitVec.ofNat 4 rl, kind := kind.code }, consumed := t.outLen })

/-- R124. Build then parse: the output of BUILD_READ, copied into IN, is parsed by PARSE_FRAME under the same configuration:
SRC, DEST and both sequence numbers are the operands, FC is P_FC_READ, and there is one record per range, in order, with
qualifier 0x00, start/stop, 2 bytes, and the range's start and stop. -/
def Obligations.ParseFrameReadsWhatBuildReadWrote : Prop :=
  ∀ (s t s' : State) (rs : List ReadRange), s.cfg.legal = true → s.inputIs (wireRanges rs) →
    exec .buildRead s = .next t → t.err = 0 → s'.fedFrom t →
    ∃ t', exec .parseFrame s' = .next t' ∧ t'.err = 0 ∧ t'.dl.src = s.dl.src ∧ t'.dl.dest = s.dl.dest ∧
      t'.ah.seq = s.ah.seq ∧ t'.th.seq = s.th.seq ∧ t'.ah.fc = s.cfg.fcRead ∧
      t'.objCount = BitVec.ofNat 16 rs.length ∧ t'.outLen = BitVec.ofNat 16 (12 * rs.length) ∧
      ∀ j r, rs[j]? = some r → ∀ k, k < 12 → t'.outBuf.read (12 * j + k) =
        [r.group, r.var, 0x00, 0x12, r.start, 0x00, 0x00, 0x00, r.stop, 0x00, 0x00, 0x00][k]?

/-- R125. A frame of exactly the 11 header bytes, with valid CRCs, parses with OBJ_COUNT = 0, an empty output and no error;
where its function code asks for an IIN field that is not there, PARSE_FRAME raises
TRUNCATED_HEADER(9, application, 4 needed, 2 available) (R97, R142). -/
def Obligations.BareHeadersParseToNoObjects : Prop :=
  ∀ (s : State) (dl : DlHeader) (th : ThHeader) (ah : AhHeader),
    s.inputIs (frameEncode s.cfg (wireDl dl ++ wireTh th ++ [wireControl ah, ah.fc])) →
    (¬ carriesIin s.cfg ah.fc →
      exec .parseFrame s = .next { s.completed with
        dl := dl, th := th, ah := { ah with iin := 0 }, objCount := 0, outLen := 0 }) ∧
    (carriesIin s.cfg ah.fc → exec .parseFrame s = .next (s.failed 0x02 9 0x00020403))

/-- R126. Corruption: flipping any single bit of a framed frame that PARSE_FRAME accepts makes PARSE_FRAME raise
CHECKSUM_MISMATCH, under every legal configuration; so it writes nothing but STATUS and the information words. -/
def Obligations.ParseFrameDetectsEveryBitFlip : Prop :=
  ∀ (s t s' : State) (f : List Byte) (j : Nat) (k : Fin 8), s.cfg.legal = true → s.inputIs f →
    exec .parseFrame s = .next t → t.err = 0 → s'.cfg = s.cfg → j < f.length → s'.inputIs (flipBit f j k) →
    ∃ i0 i1, exec .parseFrame s' = .next (s'.failed 0x01 i0 i1)

/-- R142, R113, R84. A corrupted frame reports CHECKSUM_MISMATCH or TRUNCATED_BLOCK before anything its content could
report. Under FLAT, whenever stripping the CRCs raises an error, PARSE_FRAME reports that error. Under SEPARATE the
header block is block 0 and the data blocks are 1, 2 and on: a wrong header CRC is reported as block 0 whatever follows,
and after a good header block and k good full data blocks a wrong CRC of a full or a short block, or a tail of 1 or 2
bytes, is reported as block k + 1. -/
def Obligations.ParseFrameChecksCrcsFirst : Prop :=
  ∀ s : State,
    (∀ (f : List Byte) (e : CmdError), s.cfg.hdrBlock = .flat → s.inputIs f → stripAndVerify s.cfg f 0 = .error e →
      exec .parseFrame s = .next (s.failed e.code e.info0 e.info1)) ∧
    (∀ (hdr rest : List Byte) (lo hi : Byte), s.cfg.hdrBlock = .separate → hdr.length = 8 →
      s.inputIs (hdr ++ [lo, hi] ++ rest) → crc16 s.cfg hdr ≠ hi ++ lo →
      exec .parseFrame s = .next (s.failed 0x01 0 (hi ++ lo ++ crc16 s.cfg hdr))) ∧
    (∀ (hdr good : List Byte) (k : Nat), s.cfg.hdrBlock = .separate → hdr.length = 8 → good.length = 16 * k →
      let front := addChecksums s.cfg hdr ++ addChecksums s.cfg good
      (∀ (blk rest : List Byte) (lo hi : Byte), blk.length = 16 → s.inputIs (front ++ blk ++ [lo, hi] ++ rest) →
        crc16 s.cfg blk ≠ hi ++ lo →
        exec .parseFrame s = .next (s.failed 0x01 (BitVec.ofNat 32 (k + 1)) (hi ++ lo ++ crc16 s.cfg blk))) ∧
      (∀ (blk : List Byte) (lo hi : Byte), 1 ≤ blk.length → blk.length ≤ 15 → s.inputIs (front ++ blk ++ [lo, hi]) →
        crc16 s.cfg blk ≠ hi ++ lo →
        exec .parseFrame s = .next (s.failed 0x01 (BitVec.ofNat 32 (k + 1)) (hi ++ lo ++ crc16 s.cfg blk))) ∧
      (∀ tail : List Byte, 1 ≤ tail.length → tail.length ≤ 2 → s.inputIs (front ++ tail) →
        exec .parseFrame s = .next (s.failed 0x05 (BitVec.ofNat 32 (k + 1)) (BitVec.ofNat 32 tail.length))))

/-! ### The host and reset -/

/-- R41, R42. Host accesses to IN outside the busy interval: a byte write stores the byte and marks it; an aligned 32-bit
write inside IN stores four bytes, least significant first, and marks them; a read returns written bytes, least
significant first, and faults if one of its bytes is unwritten. An 8-bit access has its byte in the low byte of the
value, the rest 0 on a read and ignored on a write (assumption 10). -/
def Obligations.HostReachesInput : Prop :=
  ∀ (s : State) (j : Nat) (v : Word), s.awaiting = false → s.cfg.inCap ≤ 8192 → j < s.cfg.inCap →
    (∃ t, s.hostWrite (0x2000 + j) .w8 v = .ok t ∧ t = { s with inBuf := t.inBuf } ∧
      ∀ k, t.inBuf.read k = if k = j then some (v.extractLsb' 0 8) else s.inBuf.read k) ∧
    (∀ b, s.inBuf.read j = some b →
      s.hostRead (0x2000 + j) .w8 = .ok (b.setWidth 32, { s with rdata := some (b.setWidth 32) })) ∧
    (s.inBuf.read j = none →
      s.hostRead (0x2000 + j) .w8 = .error (.hostFault .unwritten (0x2000 + j) .w8)) ∧
    (j % 4 = 0 → j + 3 < s.cfg.inCap →
      (∃ t, s.hostWrite (0x2000 + j) .w32 v = .ok t ∧ t = { s with inBuf := t.inBuf } ∧
        ∀ k, t.inBuf.read k =
          if j ≤ k ∧ k < j + 4 then some (v.extractLsb' (8 * (k - j)) 8) else s.inBuf.read k) ∧
      (∀ b0 b1 b2 b3, s.inBuf.read j = some b0 → s.inBuf.read (j + 1) = some b1 → s.inBuf.read (j + 2) = some b2 →
        s.inBuf.read (j + 3) = some b3 →
        s.hostRead (0x2000 + j) .w32 = .ok (b3 ++ b2 ++ b1 ++ b0, { s with rdata := some (b3 ++ b2 ++ b1 ++ b0) })) ∧
      (∀ k, k < 4 → s.inBuf.read (j + k) = none →
        s.hostRead (0x2000 + j) .w32 = .error (.hostFault .unwritten (0x2000 + j) .w32)))

/-- R42, R30. Host reads of OUT outside the busy interval: an 8-bit read of a written byte returns it, zero-extended
(assumption 10); an aligned 32-bit read of four written bytes returns them with the lowest offset in bits [7:0]; a read
of an unwritten byte, alone or among the four, faults. -/
def Obligations.OutputReadsLittleEndian : Prop :=
  ∀ (s : State) (j : Nat), s.awaiting = false → s.cfg.outCap ≤ 16384 → j < s.cfg.outCap →
    (∀ b, s.outBuf.read j = some b →
      s.hostRead (0x4000 + j) .w8 = .ok (b.setWidth 32, { s with rdata := some (b.setWidth 32) })) ∧
    (s.outBuf.read j = none →
      s.hostRead (0x4000 + j) .w8 = .error (.hostFault .unwritten (0x4000 + j) .w8)) ∧
    (j % 4 = 0 → j + 3 < s.cfg.outCap →
      (∀ b0 b1 b2 b3, s.outBuf.read j = some b0 → s.outBuf.read (j + 1) = some b1 →
        s.outBuf.read (j + 2) = some b2 → s.outBuf.read (j + 3) = some b3 →
        s.hostRead (0x4000 + j) .w32 = .ok (b3 ++ b2 ++ b1 ++ b0, { s with rdata := some (b3 ++ b2 ++ b1 ++ b0) })) ∧
      (∀ k, k < 4 → s.outBuf.read (j + k) = none →
        s.hostRead (0x4000 + j) .w32 = .error (.hostFault .unwritten (0x4000 + j) .w32)))

/-- R33, R154, R24. In the busy interval, that is while BUSY = 1 or the poll of R154 is due, every host write is a host
fault, a read of STATUS returns STATUS and ends the interval if BUSY = 0, and an allowed read of anything else returns a
draw: the next value of the model's unconstrained sequence, a fresh one for each read (assumption 6), whatever the state
holds and also for an unwritten byte (assumption 7). Where the configuration follows R24, R32 and R33, no poll is ever due
and the interval is just the time a command is pending; where it follows R154, the interval holds that time and the poll
(assumption 27). -/
def Obligations.BusyHostAccesses : Prop :=
  (∀ s : State, s.Inv → (s.pend ≠ none → s.awaiting = true) ∧
    (s.cfg.busyEnd = .atCompletion → (s.awaiting = true ↔ s.pend ≠ none))) ∧
  ∀ s : State, s.busy = true ∨ s.polling = true →
    s.awaiting = true ∧
    (∀ off w v, ∃ r, s.hostWrite off w v = .error (.hostFault r off w)) ∧
    (s.busy = true → s.hostRead 0x04 .w32 = .ok (s.statusWord, { s with rdata := some s.statusWord })) ∧
    (s.busy = false →
      s.hostRead 0x04 .w32 = .ok (s.statusWord, { s with rdata := some s.statusWord, polling := false })) ∧
    (∀ off p, access s.cfg off .w32 = .ok p → p ≠ .reg .status →
      s.hostRead off .w32 =
        .ok (Config.draw s.draws, { s with rdata := some (Config.draw s.draws), draws := s.draws + 1 })) ∧
    (∀ off p, access s.cfg off .w8 = .ok p →
      ∃ v, v = ((Config.draw s.draws).setWidth 8).setWidth 32 ∧
        s.hostRead off .w8 = .ok (v, { s with rdata := some v, draws := s.draws + 1 }))

/-- R43, R44. The accesses at offsets of the window that are host faults, reads and writes alike: a 16-bit or 64-bit access
anywhere; any access at a reserved offset; in the register block, an access that is not 32 bits or not at a multiple of 4;
in a buffer, a 32-bit access at a distance that is not a multiple of 4 or past the last byte. A write to OUT is one too. -/
def Obligations.DisallowedAccessesFault : Prop :=
  ∀ s : State, s.cfg.inCap ≤ 8192 → s.cfg.outCap ≤ 16384 →
    (∀ off, off < 0x8000 → s.accessFaults off .w16 ∧ s.accessFaults off .w64) ∧
    (∀ off w, ((0x2C ≤ off ∧ off < 0x30) ∨ (0x4C ≤ off ∧ off < 0x2000) ∨ (0x2000 + s.cfg.inCap ≤ off ∧ off < 0x4000) ∨
      (0x4000 + s.cfg.outCap ≤ off ∧ off < 0x8000)) → s.accessFaults off w) ∧
    (∀ off w, off < 0x100 → w ≠ .w32 ∨ off % 4 ≠ 0 → s.accessFaults off w) ∧
    (∀ j, j < s.cfg.inCap → j % 4 ≠ 0 ∨ s.cfg.inCap ≤ j + 3 → s.accessFaults (0x2000 + j) .w32) ∧
    (∀ j, j < s.cfg.outCap → j % 4 ≠ 0 ∨ s.cfg.outCap ≤ j + 3 → s.accessFaults (0x4000 + j) .w32) ∧
    (∀ j w v, j < s.cfg.outCap → ∃ r, s.hostWrite (0x4000 + j) w v = .error (.hostFault r (0x4000 + j) w))

/-- R22, R23, R47. Registers, outside the busy interval: a read at each register's offset returns its word, with every
field where R22 puts it and reserved bits 0 (CMD reads 0); a write to an RW register makes it read back what was written
with its reserved bits 0 and changes no other register, no buffer and not PEND; a write to an RO register changes
nothing. -/
def Obligations.RegistersReadBackWithoutReservedBits : Prop :=
  ∀ (s : State) (v : Word), s.awaiting = false →
    (∀ e ∈ registerMap s, e.2.1.offset = e.1 ∧ s.regWord e.2.1 = e.2.2 ∧
      s.hostRead e.1 .w32 = .ok (e.2.2, { s with rdata := some e.2.2 })) ∧
    (∀ r, ∃ e ∈ registerMap s, e.2.1 = r) ∧
    (∀ r ∈ rwRegs, ∃ t, s.hostWrite r.offset .w32 v = .ok t ∧ t.regWord r = v &&& fieldMask r ∧
      (∀ r', r' ≠ r → t.regWord r' = s.regWord r') ∧ t.inBuf = s.inBuf ∧ t.outBuf = s.outBuf ∧ t.pend = s.pend) ∧
    (∀ r ∈ roRegs, s.hostWrite r.offset .w32 v = .ok s) ∧
    ∀ r, s.regWord r &&& ~~~ fieldMask r = 0

/-- R32, R26, R154. A host write of v to CMD latches the whole word in PEND (assumption 4), sets BUSY, clears DONE and ERR,
and changes nothing else, ERR_INFO0 and ERR_INFO1 included; where the configuration follows R154 the poll is now due
(assumption 27). It does so outside the busy interval, which where the configuration follows R32 is whenever PEND is
idle. -/
def Obligations.CommandWriteIssues : Prop :=
  ∀ (s : State) (v : Word), (s.awaiting = false ∨ (s.Inv ∧ s.cfg.busyEnd = .atCompletion ∧ s.pend = none)) →
    (s.cfg.busyEnd = .atPoll → s.hostWrite 0x00 .w32 v =
      .ok { s with pend := some v, busy := true, done := false, err := 0, polling := true }) ∧
    (s.cfg.busyEnd = .atCompletion → s.hostWrite 0x00 .w32 v =
      .ok { s with pend := some v, busy := true, done := false, err := 0, polling := false })

/-- R150, R152. The reset event: every register reads 0, PEND is idle so a command in flight is abandoned with none of its
results and DONE 0, every byte of IN and OUT is unwritten, and the configuration is unchanged. The model's choices: the
host agent and the rest of the schedule stay (assumption 17), and the busy interval ends (assumption 27). -/
def Obligations.ResetEventClearsTheEngine : Prop :=
  ∀ (s : State) (rest : List Event), s.env = .reset :: rest →
    ∃ t, step s = .next t ∧ (∀ r, t.regWord r = 0) ∧ t.pend = none ∧ t.busy = false ∧ t.done = false ∧
      (∀ j, t.inBuf.read j = none) ∧ (∀ j, t.outBuf.read j = none) ∧ t.cfg = s.cfg ∧ t.env = rest ∧ t.host = s.host ∧
      t.polling = false

/-- R151, R22. The state after reset: every register reads 0, every byte of IN and OUT is unwritten, PEND is idle. -/
def Obligations.StateAfterReset : Prop :=
  (∀ r, State.reset.regWord r = 0) ∧ State.reset.pend = none ∧ (∀ j, State.reset.inBuf.read j = none) ∧
    ∀ j, State.reset.outBuf.read j = none

/-- R76, R49, R154. The host's `exec` pseudo-instruction outside the busy interval, with nothing else scheduled: five steps
(the CMD write, the engine's step, the STATUS read, the mask and the branch) leave the command's completed state with the
busy interval over, the host past the loop and h7 = 0. The order of the two agents' turns is the model's default
(assumption 3). -/
def Obligations.ExecPseudoInstructionRunsTheCommand : Prop :=
  ∀ (s t : State) (i : Instr), s.env = [] → s.awaiting = false → s.pend = none → s.host.halted = false →
    (∀ j, j < 4 → s.host.prog[s.host.pc + j]? = (pseudoExec s.host.pc i)[j]?) →
    exec i { s with
      pend := some (encode i), busy := true, done := false, err := 0, polling := mustPoll s.cfg,
      host := { s.host with pc := s.host.pc + 1 } } = .next t →
    Host.Core.run Sys2Proof.core 5 s = .next { t with
      host := { s.host with regs := s.host.regs.set 7 0, pc := s.host.pc + 4 }, rdata := some t.statusWord,
      polling := false }

/-- R75, R38, R45. The host's turn and its statements. The host's turn runs its next statement: when it is scheduled, and
with nothing scheduled and no command pending (the model's default turn, assumption 3); a host that is halted or past its
program's end does nothing (assumption 11). A scheduled bus access (assumption 22) at WINDOW_BASE plus an offset of the
window is a host access at that offset. A value is an immediate or a host register; an offset is a number, a register's
offset, 0x2000 plus a value or 0x4000 plus a value, not wrapped (assumption 12). A store and a load do what the host
access does and the host goes on with the next statement; a fault stops the run. Arithmetic is on 32 bits and wraps, a
shift by 32 or more giving 0 (assumption 23); a branch goes to its label, a statement's index (assumption 11), exactly
when its condition holds, `jmp` always; `halt` ends the program (the host does nothing after it, assumption 11). -/
def Obligations.HostStatementsRun : Prop :=
  ∀ s : State,
    ((∀ st, s.env = [] → s.pend = none → s.host.halted = false → s.host.prog[s.host.pc]? = some st →
        step s = s.hostStmt st) ∧
      (∀ st rest, s.env = .host :: rest → s.host.halted = false → s.host.prog[s.host.pc]? = some st →
        step s = State.hostStmt { s with env := rest } st) ∧
      (∀ rest, s.env = .host :: rest → s.host.halted = true ∨ s.host.prog.length ≤ s.host.pc →
        step s = .next { s with env := rest })) ∧
    (∀ off w rest, off < 0x8000 → s.env = .bus (s.cfg.windowBase + off) w .read :: rest →
      (∀ v t, State.hostRead { s with env := rest } off w = .ok (v, t) → step s = .next t) ∧
      (∀ f, State.hostRead { s with env := rest } off w = .error f → step s = .fault f)) ∧
    (∀ off w v rest, off < 0x8000 → s.env = .bus (s.cfg.windowBase + off) w (.write v) :: rest →
      (∀ t, State.hostWrite { s with env := rest } off w v = .ok t → step s = .next t) ∧
      (∀ f, State.hostWrite { s with env := rest } off w v = .error f → step s = .fault f)) ∧
    (∀ (v : Word) (h : Fin 8), s.host.val (.imm v) = v ∧ s.host.val (.reg h) = s.host.regs[h]) ∧
    (∀ n r x, s.host.off (.num n) = n ∧ s.host.off (.reg r) = r.offset ∧
      s.host.off (.inBuf x) = 0x2000 + (s.host.val x).toNat ∧
      s.host.off (.outBuf x) = 0x4000 + (s.host.val x).toNat) ∧
    (∀ off x,
      (∀ t, s.hostWrite (s.host.off off) .w32 (s.host.val x) = .ok t →
        s.hostStmt (.wr32 off x) = .next { t with host := { s.host with pc := s.host.pc + 1 } }) ∧
      (∀ f, s.hostWrite (s.host.off off) .w32 (s.host.val x) = .error f → s.hostStmt (.wr32 off x) = .fault f) ∧
      (∀ t, s.hostWrite (s.host.off off) .w8 (s.host.val x) = .ok t →
        s.hostStmt (.wr8 off x) = .next { t with host := { s.host with pc := s.host.pc + 1 } }) ∧
      (∀ f, s.hostWrite (s.host.off off) .w8 (s.host.val x) = .error f → s.hostStmt (.wr8 off x) = .fault f)) ∧
    (∀ (h : Fin 8) off,
      (∀ v t, s.hostRead (s.host.off off) .w32 = .ok (v, t) → s.hostStmt (.rd32 h off) =
        .next { t with host := { s.host with regs := s.host.regs.set h v, pc := s.host.pc + 1 } }) ∧
      (∀ f, s.hostRead (s.host.off off) .w32 = .error f → s.hostStmt (.rd32 h off) = .fault f) ∧
      (∀ v t, s.hostRead (s.host.off off) .w8 = .ok (v, t) → s.hostStmt (.rd8 h off) =
        .next { t with host := { s.host with regs := s.host.regs.set h v, pc := s.host.pc + 1 } }) ∧
      (∀ f, s.hostRead (s.host.off off) .w8 = .error f → s.hostStmt (.rd8 h off) = .fault f)) ∧
    (∀ (h m : Fin 8) (x : HostVal),
      s.hostStmt (.add h m x) = .next { s with host := { s.host with
        regs := s.host.regs.set h (BitVec.ofNat 32 ((s.host.regs[m].toNat + (s.host.val x).toNat) % 2 ^ 32)),
        pc := s.host.pc + 1 } } ∧
      s.hostStmt (.and h m x) = .next { s with host := { s.host with
        regs := s.host.regs.set h (s.host.regs[m] &&& s.host.val x), pc := s.host.pc + 1 } } ∧
      s.hostStmt (.shr h m x) = .next { s with host := { s.host with
        regs := s.host.regs.set h (BitVec.ofNat 32 (s.host.regs[m].toNat / 2 ^ (s.host.val x).toNat)),
        pc := s.host.pc + 1 } }) ∧
    (∀ (h : Fin 8) (x : HostVal) (label : Nat),
      (s.host.regs[h] = s.host.val x →
        s.hostStmt (.beq h x label) = .next { s with host := { s.host with pc := label } } ∧
        s.hostStmt (.bne h x label) = .next { s with host := { s.host with pc := s.host.pc + 1 } }) ∧
      (s.host.regs[h] ≠ s.host.val x →
        s.hostStmt (.bne h x label) = .next { s with host := { s.host with pc := label } } ∧
        s.hostStmt (.beq h x label) = .next { s with host := { s.host with pc := s.host.pc + 1 } }) ∧
      s.hostStmt (.jmp label) = .next { s with host := { s.host with pc := label } }) ∧
    s.hostStmt .halt = .next { s with host := { s.host with halted := true } }
end

