-- ==== Sys2Proof/Laws/Memory.lean ====
section
/-! SUPPORT. The laws of the buffers: a read after a write, and that every buffer operation keeps the canonical form and
stays inside the capacity. -/

namespace Sys2Proof.Machine

/-- A read after a write: the byte written at its index, the old byte elsewhere. -/
theorem Memory.read_write (m : Memory) (a : Nat) (b : Byte) (c : Nat) :
    (m.write a b).read c = if c = a then some b else m.read c := by
  induction m with
  | nil => simp [Memory.write, Memory.read, eq_comm]
  | cons p m ih =>
    obtain ⟨k, v⟩ := p
    simp only [Memory.write]
    split_ifs with h1 h2 h3 h3 h3 <;> simp_all [Memory.read] <;> grind

/-- A read after a string write: the string's byte in its range, the old byte elsewhere. -/
theorem Memory.read_writeAll (m : Memory) (a : Nat) (bs : List Byte) (c : Nat) :
    (m.writeAll a bs).read c = if a ≤ c ∧ c < a + bs.length then bs[c - a]? else m.read c := by
  induction bs generalizing m a with
  | nil => simp [Memory.writeAll]
  | cons b bs ih =>
    rw [Memory.writeAll, ih, Memory.read_write]
    by_cases h : c = a
    · subst h; simp
    · by_cases h' : a + 1 ≤ c ∧ c < a + 1 + bs.length
      · have e : c - a = (c - (a + 1)) + 1 := by omega
        rw [if_pos h', if_pos (by simp; omega), e, List.getElem?_cons_succ]
      · rw [if_neg h', if_neg h, if_neg (by simp; omega)]

/-- Everything in a canonical tail lies above its head. -/
theorem Memory.wf_cons (a : Nat) (x : Byte) (m : Memory) :
    Memory.wf ((a, x) :: m) = true ↔ (∀ c ∈ m, a < c.1) ∧ Memory.wf m = true := by
  induction m generalizing a x with
  | nil => simp [Memory.wf]
  | cons p m ih =>
    obtain ⟨k, v⟩ := p
    have h := ih k v
    simp only [Memory.wf, Bool.and_eq_true, decide_eq_true_eq, List.mem_cons, forall_eq_or_imp] at h ⊢
    constructor
    · rintro ⟨hak, hw⟩
      exact ⟨⟨hak, fun c hc => lt_trans hak ((h.1 hw).1 c hc)⟩, hw⟩
    · rintro ⟨⟨hak, -⟩, hw⟩
      exact ⟨hak, hw⟩

/-- The indexes after a write: the written one and the old ones. -/
theorem Memory.mem_write {m : Memory} {a : Nat} {b : Byte} {c : Host.Cell} (h : c ∈ m.write a b) :
    c = (a, b) ∨ c ∈ m := by
  induction m with
  | nil => simpa [Memory.write] using h
  | cons p m ih =>
    obtain ⟨k, v⟩ := p
    simp only [Memory.write] at h
    split_ifs at h <;> simp only [List.mem_cons] at h ⊢ <;> tauto

/-- A write keeps the canonical form. -/
theorem Memory.wf_write {m : Memory} (a : Nat) (b : Byte) (h : Memory.wf m = true) :
    Memory.wf (m.write a b) = true := by
  induction m with
  | nil => rfl
  | cons p m ih =>
    obtain ⟨k, v⟩ := p
    obtain ⟨hk, hm⟩ := (Memory.wf_cons k v m).1 h
    simp only [Memory.write]
    split_ifs with h1 h2
    · refine (Memory.wf_cons a b _).2 ⟨?_, h⟩
      simp only [List.mem_cons, forall_eq_or_imp]
      exact ⟨h1, fun c hc => lt_trans h1 (hk c hc)⟩
    · subst h2; exact (Memory.wf_cons a b m).2 ⟨hk, hm⟩
    · refine (Memory.wf_cons k v _).2 ⟨fun c hc => ?_, ih hm⟩
      rcases Memory.mem_write hc with rfl | hc
      · simp; omega
      · exact hk c hc

/-- A string write keeps the canonical form. -/
theorem Memory.wf_writeAll {m : Memory} (a : Nat) (bs : List Byte) (h : Memory.wf m = true) :
    Memory.wf (m.writeAll a bs) = true := by
  induction bs generalizing m a with
  | nil => exact h
  | cons b bs ih => exact ih (a + 1) (Memory.wf_write a b h)

/-- A write inside the capacity keeps a buffer inside it. -/
theorem Memory.inside_write {m : Memory} {cap a : Nat} (b : Byte) (h : Memory.inside m cap = true) (ha : a < cap) :
    Memory.inside (m.write a b) cap = true := by
  simp only [Memory.inside, Bool.and_eq_true, List.all_eq_true, decide_eq_true_eq] at h ⊢
  refine ⟨Memory.wf_write a b h.1, fun c hc => ?_⟩
  rcases Memory.mem_write hc with rfl | hc
  · exact ha
  · exact h.2 c hc

/-- A string write inside the capacity keeps a buffer inside it. -/
theorem Memory.inside_writeAll {m : Memory} {cap a : Nat} (bs : List Byte) (h : Memory.inside m cap = true)
    (ha : a + bs.length ≤ cap) : Memory.inside (m.writeAll a bs) cap = true := by
  induction bs generalizing m a with
  | nil => exact h
  | cons b bs ih =>
    simp only [List.length_cons] at ha
    exact ih (Memory.inside_write b h (by omega)) (by omega)

/-- A string read succeeds exactly with the string the buffer holds. -/
theorem Memory.readAll_eq_ok {m : Memory} {a n : Nat} {bs : List Byte} :
    m.readAll a n = .ok bs ↔ bs.length = n ∧ ∀ j, j < n → m.read (a + j) = bs[j]? := by
  induction n generalizing a bs with
  | zero => cases bs <;> simp [Memory.readAll]
  | succ n ih =>
    rw [Memory.readAll]
    constructor
    · intro h
      split at h
      · cases h
      · rename_i b hb
        split at h
        · rename_i t ht
          obtain rfl : b :: t = bs := by simpa using h
          obtain ⟨hl, hr⟩ := ih.1 ht
          refine ⟨by simp [hl], fun j hj => ?_⟩
          cases j with
          | zero => simpa using hb
          | succ j => simpa [Nat.add_comm, Nat.add_left_comm, Nat.add_assoc] using hr j (by omega)
        · cases h
    · rintro ⟨hl, hr⟩
      obtain ⟨b, t, rfl⟩ : ∃ b t, bs = b :: t := by cases bs <;> simp_all
      have hb : m.read a = some b := by simpa using hr 0 (by omega)
      have ht : m.readAll (a + 1) n = .ok t := by
        refine ih.2 ⟨by simpa using hl, fun j hj => ?_⟩
        have := hr (j + 1) (by omega)
        simpa [Nat.add_comm, Nat.add_left_comm, Nat.add_assoc] using this
      simp [hb, ht]

/-- A string read fails at the first unwritten index of its range. -/
theorem Memory.readAll_eq_error {m : Memory} {a n i : Nat} :
    m.readAll a n = .error i ↔
      a ≤ i ∧ i < a + n ∧ m.read i = none ∧ ∀ j, a ≤ j → j < i → (m.read j).isSome := by
  induction n generalizing a with
  | zero => simp [Memory.readAll]; omega
  | succ n ih =>
    rw [Memory.readAll]
    constructor
    · intro h
      split at h
      · rename_i hb
        obtain rfl : a = i := by simpa using h
        exact ⟨le_rfl, by omega, hb, fun j h1 h2 => by omega⟩
      · rename_i b hb
        split at h
        · cases h
        · rename_i i' ht
          obtain rfl : i' = i := by simpa using h
          obtain ⟨h1, h2, h3, h4⟩ := ih.1 ht
          refine ⟨by omega, by omega, h3, fun j hj hji => ?_⟩
          by_cases e : j = a
          · subst e; simp [hb]
          · exact h4 j (by omega) hji
    · rintro ⟨h1, h2, h3, h4⟩
      by_cases e : a = i
      · subst e; simp [h3]
      · obtain ⟨b, hb⟩ := Option.isSome_iff_exists.1 (h4 a le_rfl (by omega))
        have ht : m.readAll (a + 1) n = .error i :=
          ih.2 ⟨by omega, by omega, h3, fun j hj hji => h4 j (by omega) hji⟩
        simp [hb, ht]

/-- Two buffers that agree on a range give the same string read. -/
theorem Memory.readAll_congr {m m' : Memory} {a n : Nat} (h : ∀ j, j < n → m.read (a + j) = m'.read (a + j)) :
    m.readAll a n = m'.readAll a n := by
  induction n generalizing a with
  | zero => rfl
  | succ n ih =>
    have h0 : m.read a = m'.read a := by simpa using h 0 (by omega)
    have ht : m.readAll (a + 1) n = m'.readAll (a + 1) n := ih fun j hj => by
      have := h (j + 1) (by omega)
      simpa [Nat.add_comm, Nat.add_left_comm, Nat.add_assoc] using this
    simp only [Memory.readAll, h0, ht]

/-- The buffers of the reset state are canonical and inside their capacities. -/
theorem State.reset_buffers_inside :
    State.reset.inBuf.inside State.reset.cfg.inCap = true ∧ State.reset.outBuf.inside State.reset.cfg.outCap = true :=
  ⟨rfl, rfl⟩

end Sys2Proof.Machine
end

