-- ==== Sys2Proof/Laws/State.lean ====
section
/-! SUPPORT. One lemma per field per named update of State (Machine/Ops.lean, Machine/HostPort.lean), so that no proof unfolds a record update. -/

namespace Sys2Proof.Machine

variable (s : State)

/-! ### setCrc -/

@[simp] theorem State.setCrc_cfg (v : Half) : (s.setCrc v).cfg = s.cfg := rfl
@[simp] theorem State.setCrc_pend (v : Half) : (s.setCrc v).pend = s.pend := rfl
@[simp] theorem State.setCrc_busy (v : Half) : (s.setCrc v).busy = s.busy := rfl
@[simp] theorem State.setCrc_done (v : Half) : (s.setCrc v).done = s.done := rfl
@[simp] theorem State.setCrc_err (v : Half) : (s.setCrc v).err = s.err := rfl
@[simp] theorem State.setCrc_errInfo0 (v : Half) : (s.setCrc v).errInfo0 = s.errInfo0 := rfl
@[simp] theorem State.setCrc_errInfo1 (v : Half) : (s.setCrc v).errInfo1 = s.errInfo1 := rfl
@[simp] theorem State.setCrc_inLen (v : Half) : (s.setCrc v).inLen = s.inLen := rfl
@[simp] theorem State.setCrc_outLen (v : Half) : (s.setCrc v).outLen = s.outLen := rfl
@[simp] theorem State.setCrc_inOff (v : Half) : (s.setCrc v).inOff = s.inOff := rfl
@[simp] theorem State.setCrc_consumed (v : Half) : (s.setCrc v).consumed = s.consumed := rfl
@[simp] theorem State.setCrc_crc (v : Half) : (s.setCrc v).crc = v := rfl
@[simp] theorem State.setCrc_rlen (v : Half) : (s.setCrc v).rlen = s.rlen := rfl
@[simp] theorem State.setCrc_objCount (v : Half) : (s.setCrc v).objCount = s.objCount := rfl
@[simp] theorem State.setCrc_dl (v : Half) : (s.setCrc v).dl = s.dl := rfl
@[simp] theorem State.setCrc_th (v : Half) : (s.setCrc v).th = s.th := rfl
@[simp] theorem State.setCrc_ah (v : Half) : (s.setCrc v).ah = s.ah := rfl
@[simp] theorem State.setCrc_oh (v : Half) : (s.setCrc v).oh = s.oh := rfl
@[simp] theorem State.setCrc_inBuf (v : Half) : (s.setCrc v).inBuf = s.inBuf := rfl
@[simp] theorem State.setCrc_outBuf (v : Half) : (s.setCrc v).outBuf = s.outBuf := rfl
@[simp] theorem State.setCrc_env (v : Half) : (s.setCrc v).env = s.env := rfl
@[simp] theorem State.setCrc_host (v : Half) : (s.setCrc v).host = s.host := rfl
@[simp] theorem State.setCrc_rdata (v : Half) : (s.setCrc v).rdata = s.rdata := rfl
@[simp] theorem State.setCrc_polling (v : Half) : (s.setCrc v).polling = s.polling := rfl
@[simp] theorem State.setCrc_draws (v : Half) : (s.setCrc v).draws = s.draws := rfl

/-! ### setOutput -/

@[simp] theorem State.setOutput_cfg (out : List Byte) : (s.setOutput out).cfg = s.cfg := rfl
@[simp] theorem State.setOutput_pend (out : List Byte) : (s.setOutput out).pend = s.pend := rfl
@[simp] theorem State.setOutput_busy (out : List Byte) : (s.setOutput out).busy = s.busy := rfl
@[simp] theorem State.setOutput_done (out : List Byte) : (s.setOutput out).done = s.done := rfl
@[simp] theorem State.setOutput_err (out : List Byte) : (s.setOutput out).err = s.err := rfl
@[simp] theorem State.setOutput_errInfo0 (out : List Byte) : (s.setOutput out).errInfo0 = s.errInfo0 := rfl
@[simp] theorem State.setOutput_errInfo1 (out : List Byte) : (s.setOutput out).errInfo1 = s.errInfo1 := rfl
@[simp] theorem State.setOutput_inLen (out : List Byte) : (s.setOutput out).inLen = s.inLen := rfl
@[simp] theorem State.setOutput_outLen (out : List Byte) : (s.setOutput out).outLen = BitVec.ofNat 16 out.length := rfl
@[simp] theorem State.setOutput_inOff (out : List Byte) : (s.setOutput out).inOff = s.inOff := rfl
@[simp] theorem State.setOutput_consumed (out : List Byte) : (s.setOutput out).consumed = s.consumed := rfl
@[simp] theorem State.setOutput_crc (out : List Byte) : (s.setOutput out).crc = s.crc := rfl
@[simp] theorem State.setOutput_rlen (out : List Byte) : (s.setOutput out).rlen = s.rlen := rfl
@[simp] theorem State.setOutput_objCount (out : List Byte) : (s.setOutput out).objCount = s.objCount := rfl
@[simp] theorem State.setOutput_dl (out : List Byte) : (s.setOutput out).dl = s.dl := rfl
@[simp] theorem State.setOutput_th (out : List Byte) : (s.setOutput out).th = s.th := rfl
@[simp] theorem State.setOutput_ah (out : List Byte) : (s.setOutput out).ah = s.ah := rfl
@[simp] theorem State.setOutput_oh (out : List Byte) : (s.setOutput out).oh = s.oh := rfl
@[simp] theorem State.setOutput_inBuf (out : List Byte) : (s.setOutput out).inBuf = s.inBuf := rfl
@[simp] theorem State.setOutput_outBuf (out : List Byte) : (s.setOutput out).outBuf = s.outBuf.writeAll 0 out := rfl
@[simp] theorem State.setOutput_env (out : List Byte) : (s.setOutput out).env = s.env := rfl
@[simp] theorem State.setOutput_host (out : List Byte) : (s.setOutput out).host = s.host := rfl
@[simp] theorem State.setOutput_rdata (out : List Byte) : (s.setOutput out).rdata = s.rdata := rfl
@[simp] theorem State.setOutput_polling (out : List Byte) : (s.setOutput out).polling = s.polling := rfl
@[simp] theorem State.setOutput_draws (out : List Byte) : (s.setOutput out).draws = s.draws := rfl

/-! ### setDl -/

@[simp] theorem State.setDl_cfg (h : DlHeader) : (s.setDl h).cfg = s.cfg := rfl
@[simp] theorem State.setDl_pend (h : DlHeader) : (s.setDl h).pend = s.pend := rfl
@[simp] theorem State.setDl_busy (h : DlHeader) : (s.setDl h).busy = s.busy := rfl
@[simp] theorem State.setDl_done (h : DlHeader) : (s.setDl h).done = s.done := rfl
@[simp] theorem State.setDl_err (h : DlHeader) : (s.setDl h).err = s.err := rfl
@[simp] theorem State.setDl_errInfo0 (h : DlHeader) : (s.setDl h).errInfo0 = s.errInfo0 := rfl
@[simp] theorem State.setDl_errInfo1 (h : DlHeader) : (s.setDl h).errInfo1 = s.errInfo1 := rfl
@[simp] theorem State.setDl_inLen (h : DlHeader) : (s.setDl h).inLen = s.inLen := rfl
@[simp] theorem State.setDl_outLen (h : DlHeader) : (s.setDl h).outLen = s.outLen := rfl
@[simp] theorem State.setDl_inOff (h : DlHeader) : (s.setDl h).inOff = s.inOff := rfl
@[simp] theorem State.setDl_consumed (h : DlHeader) : (s.setDl h).consumed = s.consumed := rfl
@[simp] theorem State.setDl_crc (h : DlHeader) : (s.setDl h).crc = s.crc := rfl
@[simp] theorem State.setDl_rlen (h : DlHeader) : (s.setDl h).rlen = s.rlen := rfl
@[simp] theorem State.setDl_objCount (h : DlHeader) : (s.setDl h).objCount = s.objCount := rfl
@[simp] theorem State.setDl_dl (h : DlHeader) : (s.setDl h).dl = h := rfl
@[simp] theorem State.setDl_th (h : DlHeader) : (s.setDl h).th = s.th := rfl
@[simp] theorem State.setDl_ah (h : DlHeader) : (s.setDl h).ah = s.ah := rfl
@[simp] theorem State.setDl_oh (h : DlHeader) : (s.setDl h).oh = s.oh := rfl
@[simp] theorem State.setDl_inBuf (h : DlHeader) : (s.setDl h).inBuf = s.inBuf := rfl
@[simp] theorem State.setDl_outBuf (h : DlHeader) : (s.setDl h).outBuf = s.outBuf := rfl
@[simp] theorem State.setDl_env (h : DlHeader) : (s.setDl h).env = s.env := rfl
@[simp] theorem State.setDl_host (h : DlHeader) : (s.setDl h).host = s.host := rfl
@[simp] theorem State.setDl_rdata (h : DlHeader) : (s.setDl h).rdata = s.rdata := rfl
@[simp] theorem State.setDl_polling (h : DlHeader) : (s.setDl h).polling = s.polling := rfl
@[simp] theorem State.setDl_draws (h : DlHeader) : (s.setDl h).draws = s.draws := rfl

/-! ### setTh -/

@[simp] theorem State.setTh_cfg (h : ThHeader) : (s.setTh h).cfg = s.cfg := rfl
@[simp] theorem State.setTh_pend (h : ThHeader) : (s.setTh h).pend = s.pend := rfl
@[simp] theorem State.setTh_busy (h : ThHeader) : (s.setTh h).busy = s.busy := rfl
@[simp] theorem State.setTh_done (h : ThHeader) : (s.setTh h).done = s.done := rfl
@[simp] theorem State.setTh_err (h : ThHeader) : (s.setTh h).err = s.err := rfl
@[simp] theorem State.setTh_errInfo0 (h : ThHeader) : (s.setTh h).errInfo0 = s.errInfo0 := rfl
@[simp] theorem State.setTh_errInfo1 (h : ThHeader) : (s.setTh h).errInfo1 = s.errInfo1 := rfl
@[simp] theorem State.setTh_inLen (h : ThHeader) : (s.setTh h).inLen = s.inLen := rfl
@[simp] theorem State.setTh_outLen (h : ThHeader) : (s.setTh h).outLen = s.outLen := rfl
@[simp] theorem State.setTh_inOff (h : ThHeader) : (s.setTh h).inOff = s.inOff := rfl
@[simp] theorem State.setTh_consumed (h : ThHeader) : (s.setTh h).consumed = s.consumed := rfl
@[simp] theorem State.setTh_crc (h : ThHeader) : (s.setTh h).crc = s.crc := rfl
@[simp] theorem State.setTh_rlen (h : ThHeader) : (s.setTh h).rlen = s.rlen := rfl
@[simp] theorem State.setTh_objCount (h : ThHeader) : (s.setTh h).objCount = s.objCount := rfl
@[simp] theorem State.setTh_dl (h : ThHeader) : (s.setTh h).dl = s.dl := rfl
@[simp] theorem State.setTh_th (h : ThHeader) : (s.setTh h).th = h := rfl
@[simp] theorem State.setTh_ah (h : ThHeader) : (s.setTh h).ah = s.ah := rfl
@[simp] theorem State.setTh_oh (h : ThHeader) : (s.setTh h).oh = s.oh := rfl
@[simp] theorem State.setTh_inBuf (h : ThHeader) : (s.setTh h).inBuf = s.inBuf := rfl
@[simp] theorem State.setTh_outBuf (h : ThHeader) : (s.setTh h).outBuf = s.outBuf := rfl
@[simp] theorem State.setTh_env (h : ThHeader) : (s.setTh h).env = s.env := rfl
@[simp] theorem State.setTh_host (h : ThHeader) : (s.setTh h).host = s.host := rfl
@[simp] theorem State.setTh_rdata (h : ThHeader) : (s.setTh h).rdata = s.rdata := rfl
@[simp] theorem State.setTh_polling (h : ThHeader) : (s.setTh h).polling = s.polling := rfl
@[simp] theorem State.setTh_draws (h : ThHeader) : (s.setTh h).draws = s.draws := rfl

/-! ### setAh -/

@[simp] theorem State.setAh_cfg (h : AhHeader) : (s.setAh h).cfg = s.cfg := rfl
@[simp] theorem State.setAh_pend (h : AhHeader) : (s.setAh h).pend = s.pend := rfl
@[simp] theorem State.setAh_busy (h : AhHeader) : (s.setAh h).busy = s.busy := rfl
@[simp] theorem State.setAh_done (h : AhHeader) : (s.setAh h).done = s.done := rfl
@[simp] theorem State.setAh_err (h : AhHeader) : (s.setAh h).err = s.err := rfl
@[simp] theorem State.setAh_errInfo0 (h : AhHeader) : (s.setAh h).errInfo0 = s.errInfo0 := rfl
@[simp] theorem State.setAh_errInfo1 (h : AhHeader) : (s.setAh h).errInfo1 = s.errInfo1 := rfl
@[simp] theorem State.setAh_inLen (h : AhHeader) : (s.setAh h).inLen = s.inLen := rfl
@[simp] theorem State.setAh_outLen (h : AhHeader) : (s.setAh h).outLen = s.outLen := rfl
@[simp] theorem State.setAh_inOff (h : AhHeader) : (s.setAh h).inOff = s.inOff := rfl
@[simp] theorem State.setAh_consumed (h : AhHeader) : (s.setAh h).consumed = s.consumed := rfl
@[simp] theorem State.setAh_crc (h : AhHeader) : (s.setAh h).crc = s.crc := rfl
@[simp] theorem State.setAh_rlen (h : AhHeader) : (s.setAh h).rlen = s.rlen := rfl
@[simp] theorem State.setAh_objCount (h : AhHeader) : (s.setAh h).objCount = s.objCount := rfl
@[simp] theorem State.setAh_dl (h : AhHeader) : (s.setAh h).dl = s.dl := rfl
@[simp] theorem State.setAh_th (h : AhHeader) : (s.setAh h).th = s.th := rfl
@[simp] theorem State.setAh_ah (h : AhHeader) : (s.setAh h).ah = h := rfl
@[simp] theorem State.setAh_oh (h : AhHeader) : (s.setAh h).oh = s.oh := rfl
@[simp] theorem State.setAh_inBuf (h : AhHeader) : (s.setAh h).inBuf = s.inBuf := rfl
@[simp] theorem State.setAh_outBuf (h : AhHeader) : (s.setAh h).outBuf = s.outBuf := rfl
@[simp] theorem State.setAh_env (h : AhHeader) : (s.setAh h).env = s.env := rfl
@[simp] theorem State.setAh_host (h : AhHeader) : (s.setAh h).host = s.host := rfl
@[simp] theorem State.setAh_rdata (h : AhHeader) : (s.setAh h).rdata = s.rdata := rfl
@[simp] theorem State.setAh_polling (h : AhHeader) : (s.setAh h).polling = s.polling := rfl
@[simp] theorem State.setAh_draws (h : AhHeader) : (s.setAh h).draws = s.draws := rfl

/-! ### setOh -/

@[simp] theorem State.setOh_cfg (h : OhHeader) : (s.setOh h).cfg = s.cfg := rfl
@[simp] theorem State.setOh_pend (h : OhHeader) : (s.setOh h).pend = s.pend := rfl
@[simp] theorem State.setOh_busy (h : OhHeader) : (s.setOh h).busy = s.busy := rfl
@[simp] theorem State.setOh_done (h : OhHeader) : (s.setOh h).done = s.done := rfl
@[simp] theorem State.setOh_err (h : OhHeader) : (s.setOh h).err = s.err := rfl
@[simp] theorem State.setOh_errInfo0 (h : OhHeader) : (s.setOh h).errInfo0 = s.errInfo0 := rfl
@[simp] theorem State.setOh_errInfo1 (h : OhHeader) : (s.setOh h).errInfo1 = s.errInfo1 := rfl
@[simp] theorem State.setOh_inLen (h : OhHeader) : (s.setOh h).inLen = s.inLen := rfl
@[simp] theorem State.setOh_outLen (h : OhHeader) : (s.setOh h).outLen = s.outLen := rfl
@[simp] theorem State.setOh_inOff (h : OhHeader) : (s.setOh h).inOff = s.inOff := rfl
@[simp] theorem State.setOh_consumed (h : OhHeader) : (s.setOh h).consumed = s.consumed := rfl
@[simp] theorem State.setOh_crc (h : OhHeader) : (s.setOh h).crc = s.crc := rfl
@[simp] theorem State.setOh_rlen (h : OhHeader) : (s.setOh h).rlen = s.rlen := rfl
@[simp] theorem State.setOh_objCount (h : OhHeader) : (s.setOh h).objCount = s.objCount := rfl
@[simp] theorem State.setOh_dl (h : OhHeader) : (s.setOh h).dl = s.dl := rfl
@[simp] theorem State.setOh_th (h : OhHeader) : (s.setOh h).th = s.th := rfl
@[simp] theorem State.setOh_ah (h : OhHeader) : (s.setOh h).ah = s.ah := rfl
@[simp] theorem State.setOh_oh (h : OhHeader) : (s.setOh h).oh = h := rfl
@[simp] theorem State.setOh_inBuf (h : OhHeader) : (s.setOh h).inBuf = s.inBuf := rfl
@[simp] theorem State.setOh_outBuf (h : OhHeader) : (s.setOh h).outBuf = s.outBuf := rfl
@[simp] theorem State.setOh_env (h : OhHeader) : (s.setOh h).env = s.env := rfl
@[simp] theorem State.setOh_host (h : OhHeader) : (s.setOh h).host = s.host := rfl
@[simp] theorem State.setOh_rdata (h : OhHeader) : (s.setOh h).rdata = s.rdata := rfl
@[simp] theorem State.setOh_polling (h : OhHeader) : (s.setOh h).polling = s.polling := rfl
@[simp] theorem State.setOh_draws (h : OhHeader) : (s.setOh h).draws = s.draws := rfl

/-! ### setRlen -/

@[simp] theorem State.setRlen_cfg (r : RangeReg) : (s.setRlen r).cfg = s.cfg := rfl
@[simp] theorem State.setRlen_pend (r : RangeReg) : (s.setRlen r).pend = s.pend := rfl
@[simp] theorem State.setRlen_busy (r : RangeReg) : (s.setRlen r).busy = s.busy := rfl
@[simp] theorem State.setRlen_done (r : RangeReg) : (s.setRlen r).done = s.done := rfl
@[simp] theorem State.setRlen_err (r : RangeReg) : (s.setRlen r).err = s.err := rfl
@[simp] theorem State.setRlen_errInfo0 (r : RangeReg) : (s.setRlen r).errInfo0 = s.errInfo0 := rfl
@[simp] theorem State.setRlen_errInfo1 (r : RangeReg) : (s.setRlen r).errInfo1 = s.errInfo1 := rfl
@[simp] theorem State.setRlen_inLen (r : RangeReg) : (s.setRlen r).inLen = s.inLen := rfl
@[simp] theorem State.setRlen_outLen (r : RangeReg) : (s.setRlen r).outLen = s.outLen := rfl
@[simp] theorem State.setRlen_inOff (r : RangeReg) : (s.setRlen r).inOff = s.inOff := rfl
@[simp] theorem State.setRlen_consumed (r : RangeReg) : (s.setRlen r).consumed = s.consumed := rfl
@[simp] theorem State.setRlen_crc (r : RangeReg) : (s.setRlen r).crc = s.crc := rfl
@[simp] theorem State.setRlen_rlen (r : RangeReg) : (s.setRlen r).rlen = r := rfl
@[simp] theorem State.setRlen_objCount (r : RangeReg) : (s.setRlen r).objCount = s.objCount := rfl
@[simp] theorem State.setRlen_dl (r : RangeReg) : (s.setRlen r).dl = s.dl := rfl
@[simp] theorem State.setRlen_th (r : RangeReg) : (s.setRlen r).th = s.th := rfl
@[simp] theorem State.setRlen_ah (r : RangeReg) : (s.setRlen r).ah = s.ah := rfl
@[simp] theorem State.setRlen_oh (r : RangeReg) : (s.setRlen r).oh = s.oh := rfl
@[simp] theorem State.setRlen_inBuf (r : RangeReg) : (s.setRlen r).inBuf = s.inBuf := rfl
@[simp] theorem State.setRlen_outBuf (r : RangeReg) : (s.setRlen r).outBuf = s.outBuf := rfl
@[simp] theorem State.setRlen_env (r : RangeReg) : (s.setRlen r).env = s.env := rfl
@[simp] theorem State.setRlen_host (r : RangeReg) : (s.setRlen r).host = s.host := rfl
@[simp] theorem State.setRlen_rdata (r : RangeReg) : (s.setRlen r).rdata = s.rdata := rfl
@[simp] theorem State.setRlen_polling (r : RangeReg) : (s.setRlen r).polling = s.polling := rfl
@[simp] theorem State.setRlen_draws (r : RangeReg) : (s.setRlen r).draws = s.draws := rfl

/-! ### setConsumed -/

@[simp] theorem State.setConsumed_cfg (k : Nat) : (s.setConsumed k).cfg = s.cfg := rfl
@[simp] theorem State.setConsumed_pend (k : Nat) : (s.setConsumed k).pend = s.pend := rfl
@[simp] theorem State.setConsumed_busy (k : Nat) : (s.setConsumed k).busy = s.busy := rfl
@[simp] theorem State.setConsumed_done (k : Nat) : (s.setConsumed k).done = s.done := rfl
@[simp] theorem State.setConsumed_err (k : Nat) : (s.setConsumed k).err = s.err := rfl
@[simp] theorem State.setConsumed_errInfo0 (k : Nat) : (s.setConsumed k).errInfo0 = s.errInfo0 := rfl
@[simp] theorem State.setConsumed_errInfo1 (k : Nat) : (s.setConsumed k).errInfo1 = s.errInfo1 := rfl
@[simp] theorem State.setConsumed_inLen (k : Nat) : (s.setConsumed k).inLen = s.inLen := rfl
@[simp] theorem State.setConsumed_outLen (k : Nat) : (s.setConsumed k).outLen = s.outLen := rfl
@[simp] theorem State.setConsumed_inOff (k : Nat) : (s.setConsumed k).inOff = s.inOff := rfl
@[simp] theorem State.setConsumed_consumed (k : Nat) : (s.setConsumed k).consumed = BitVec.ofNat 16 k := rfl
@[simp] theorem State.setConsumed_crc (k : Nat) : (s.setConsumed k).crc = s.crc := rfl
@[simp] theorem State.setConsumed_rlen (k : Nat) : (s.setConsumed k).rlen = s.rlen := rfl
@[simp] theorem State.setConsumed_objCount (k : Nat) : (s.setConsumed k).objCount = s.objCount := rfl
@[simp] theorem State.setConsumed_dl (k : Nat) : (s.setConsumed k).dl = s.dl := rfl
@[simp] theorem State.setConsumed_th (k : Nat) : (s.setConsumed k).th = s.th := rfl
@[simp] theorem State.setConsumed_ah (k : Nat) : (s.setConsumed k).ah = s.ah := rfl
@[simp] theorem State.setConsumed_oh (k : Nat) : (s.setConsumed k).oh = s.oh := rfl
@[simp] theorem State.setConsumed_inBuf (k : Nat) : (s.setConsumed k).inBuf = s.inBuf := rfl
@[simp] theorem State.setConsumed_outBuf (k : Nat) : (s.setConsumed k).outBuf = s.outBuf := rfl
@[simp] theorem State.setConsumed_env (k : Nat) : (s.setConsumed k).env = s.env := rfl
@[simp] theorem State.setConsumed_host (k : Nat) : (s.setConsumed k).host = s.host := rfl
@[simp] theorem State.setConsumed_rdata (k : Nat) : (s.setConsumed k).rdata = s.rdata := rfl
@[simp] theorem State.setConsumed_polling (k : Nat) : (s.setConsumed k).polling = s.polling := rfl
@[simp] theorem State.setConsumed_draws (k : Nat) : (s.setConsumed k).draws = s.draws := rfl

/-! ### setObjCount -/

@[simp] theorem State.setObjCount_cfg (n : Nat) : (s.setObjCount n).cfg = s.cfg := rfl
@[simp] theorem State.setObjCount_pend (n : Nat) : (s.setObjCount n).pend = s.pend := rfl
@[simp] theorem State.setObjCount_busy (n : Nat) : (s.setObjCount n).busy = s.busy := rfl
@[simp] theorem State.setObjCount_done (n : Nat) : (s.setObjCount n).done = s.done := rfl
@[simp] theorem State.setObjCount_err (n : Nat) : (s.setObjCount n).err = s.err := rfl
@[simp] theorem State.setObjCount_errInfo0 (n : Nat) : (s.setObjCount n).errInfo0 = s.errInfo0 := rfl
@[simp] theorem State.setObjCount_errInfo1 (n : Nat) : (s.setObjCount n).errInfo1 = s.errInfo1 := rfl
@[simp] theorem State.setObjCount_inLen (n : Nat) : (s.setObjCount n).inLen = s.inLen := rfl
@[simp] theorem State.setObjCount_outLen (n : Nat) : (s.setObjCount n).outLen = s.outLen := rfl
@[simp] theorem State.setObjCount_inOff (n : Nat) : (s.setObjCount n).inOff = s.inOff := rfl
@[simp] theorem State.setObjCount_consumed (n : Nat) : (s.setObjCount n).consumed = s.consumed := rfl
@[simp] theorem State.setObjCount_crc (n : Nat) : (s.setObjCount n).crc = s.crc := rfl
@[simp] theorem State.setObjCount_rlen (n : Nat) : (s.setObjCount n).rlen = s.rlen := rfl
@[simp] theorem State.setObjCount_objCount (n : Nat) : (s.setObjCount n).objCount = BitVec.ofNat 16 n := rfl
@[simp] theorem State.setObjCount_dl (n : Nat) : (s.setObjCount n).dl = s.dl := rfl
@[simp] theorem State.setObjCount_th (n : Nat) : (s.setObjCount n).th = s.th := rfl
@[simp] theorem State.setObjCount_ah (n : Nat) : (s.setObjCount n).ah = s.ah := rfl
@[simp] theorem State.setObjCount_oh (n : Nat) : (s.setObjCount n).oh = s.oh := rfl
@[simp] theorem State.setObjCount_inBuf (n : Nat) : (s.setObjCount n).inBuf = s.inBuf := rfl
@[simp] theorem State.setObjCount_outBuf (n : Nat) : (s.setObjCount n).outBuf = s.outBuf := rfl
@[simp] theorem State.setObjCount_env (n : Nat) : (s.setObjCount n).env = s.env := rfl
@[simp] theorem State.setObjCount_host (n : Nat) : (s.setObjCount n).host = s.host := rfl
@[simp] theorem State.setObjCount_rdata (n : Nat) : (s.setObjCount n).rdata = s.rdata := rfl
@[simp] theorem State.setObjCount_polling (n : Nat) : (s.setObjCount n).polling = s.polling := rfl
@[simp] theorem State.setObjCount_draws (n : Nat) : (s.setObjCount n).draws = s.draws := rfl

/-! ### issueCommand -/

@[simp] theorem State.issueCommand_cfg (v : Word) : (s.issueCommand v).cfg = s.cfg := rfl
@[simp] theorem State.issueCommand_pend (v : Word) : (s.issueCommand v).pend = some v := rfl
@[simp] theorem State.issueCommand_busy (v : Word) : (s.issueCommand v).busy = true := rfl
@[simp] theorem State.issueCommand_done (v : Word) : (s.issueCommand v).done = false := rfl
@[simp] theorem State.issueCommand_err (v : Word) : (s.issueCommand v).err = 0 := rfl
@[simp] theorem State.issueCommand_errInfo0 (v : Word) : (s.issueCommand v).errInfo0 = s.errInfo0 := rfl
@[simp] theorem State.issueCommand_errInfo1 (v : Word) : (s.issueCommand v).errInfo1 = s.errInfo1 := rfl
@[simp] theorem State.issueCommand_inLen (v : Word) : (s.issueCommand v).inLen = s.inLen := rfl
@[simp] theorem State.issueCommand_outLen (v : Word) : (s.issueCommand v).outLen = s.outLen := rfl
@[simp] theorem State.issueCommand_inOff (v : Word) : (s.issueCommand v).inOff = s.inOff := rfl
@[simp] theorem State.issueCommand_consumed (v : Word) : (s.issueCommand v).consumed = s.consumed := rfl
@[simp] theorem State.issueCommand_crc (v : Word) : (s.issueCommand v).crc = s.crc := rfl
@[simp] theorem State.issueCommand_rlen (v : Word) : (s.issueCommand v).rlen = s.rlen := rfl
@[simp] theorem State.issueCommand_objCount (v : Word) : (s.issueCommand v).objCount = s.objCount := rfl
@[simp] theorem State.issueCommand_dl (v : Word) : (s.issueCommand v).dl = s.dl := rfl
@[simp] theorem State.issueCommand_th (v : Word) : (s.issueCommand v).th = s.th := rfl
@[simp] theorem State.issueCommand_ah (v : Word) : (s.issueCommand v).ah = s.ah := rfl
@[simp] theorem State.issueCommand_oh (v : Word) : (s.issueCommand v).oh = s.oh := rfl
@[simp] theorem State.issueCommand_inBuf (v : Word) : (s.issueCommand v).inBuf = s.inBuf := rfl
@[simp] theorem State.issueCommand_outBuf (v : Word) : (s.issueCommand v).outBuf = s.outBuf := rfl
@[simp] theorem State.issueCommand_env (v : Word) : (s.issueCommand v).env = s.env := rfl
@[simp] theorem State.issueCommand_host (v : Word) : (s.issueCommand v).host = s.host := rfl
@[simp] theorem State.issueCommand_rdata (v : Word) : (s.issueCommand v).rdata = s.rdata := rfl
@[simp] theorem State.issueCommand_polling (v : Word) : (s.issueCommand v).polling = mustPoll s.cfg := rfl
@[simp] theorem State.issueCommand_draws (v : Word) : (s.issueCommand v).draws = s.draws := rfl

/-! ### succeed -/

@[simp] theorem State.succeed_cfg : (s.succeed).cfg = s.cfg := rfl
@[simp] theorem State.succeed_pend : (s.succeed).pend = none := rfl
@[simp] theorem State.succeed_busy : (s.succeed).busy = false := rfl
@[simp] theorem State.succeed_done : (s.succeed).done = true := rfl
@[simp] theorem State.succeed_err : (s.succeed).err = 0 := rfl
@[simp] theorem State.succeed_errInfo0 : (s.succeed).errInfo0 = s.errInfo0 := rfl
@[simp] theorem State.succeed_errInfo1 : (s.succeed).errInfo1 = s.errInfo1 := rfl
@[simp] theorem State.succeed_inLen : (s.succeed).inLen = s.inLen := rfl
@[simp] theorem State.succeed_outLen : (s.succeed).outLen = s.outLen := rfl
@[simp] theorem State.succeed_inOff : (s.succeed).inOff = s.inOff := rfl
@[simp] theorem State.succeed_consumed : (s.succeed).consumed = s.consumed := rfl
@[simp] theorem State.succeed_crc : (s.succeed).crc = s.crc := rfl
@[simp] theorem State.succeed_rlen : (s.succeed).rlen = s.rlen := rfl
@[simp] theorem State.succeed_objCount : (s.succeed).objCount = s.objCount := rfl
@[simp] theorem State.succeed_dl : (s.succeed).dl = s.dl := rfl
@[simp] theorem State.succeed_th : (s.succeed).th = s.th := rfl
@[simp] theorem State.succeed_ah : (s.succeed).ah = s.ah := rfl
@[simp] theorem State.succeed_oh : (s.succeed).oh = s.oh := rfl
@[simp] theorem State.succeed_inBuf : (s.succeed).inBuf = s.inBuf := rfl
@[simp] theorem State.succeed_outBuf : (s.succeed).outBuf = s.outBuf := rfl
@[simp] theorem State.succeed_env : (s.succeed).env = s.env := rfl
@[simp] theorem State.succeed_host : (s.succeed).host = s.host := rfl
@[simp] theorem State.succeed_rdata : (s.succeed).rdata = s.rdata := rfl
@[simp] theorem State.succeed_polling : (s.succeed).polling = s.polling := rfl
@[simp] theorem State.succeed_draws : (s.succeed).draws = s.draws := rfl

/-! ### raiseError -/

@[simp] theorem State.raiseError_cfg (e : CmdError) : (s.raiseError e).cfg = s.cfg := rfl
@[simp] theorem State.raiseError_pend (e : CmdError) : (s.raiseError e).pend = none := rfl
@[simp] theorem State.raiseError_busy (e : CmdError) : (s.raiseError e).busy = false := rfl
@[simp] theorem State.raiseError_done (e : CmdError) : (s.raiseError e).done = true := rfl
@[simp] theorem State.raiseError_err (e : CmdError) : (s.raiseError e).err = e.code := rfl
@[simp] theorem State.raiseError_errInfo0 (e : CmdError) : (s.raiseError e).errInfo0 = e.info0 := rfl
@[simp] theorem State.raiseError_errInfo1 (e : CmdError) : (s.raiseError e).errInfo1 = e.info1 := rfl
@[simp] theorem State.raiseError_inLen (e : CmdError) : (s.raiseError e).inLen = s.inLen := rfl
@[simp] theorem State.raiseError_outLen (e : CmdError) : (s.raiseError e).outLen = s.outLen := rfl
@[simp] theorem State.raiseError_inOff (e : CmdError) : (s.raiseError e).inOff = s.inOff := rfl
@[simp] theorem State.raiseError_consumed (e : CmdError) : (s.raiseError e).consumed = s.consumed := rfl
@[simp] theorem State.raiseError_crc (e : CmdError) : (s.raiseError e).crc = s.crc := rfl
@[simp] theorem State.raiseError_rlen (e : CmdError) : (s.raiseError e).rlen = s.rlen := rfl
@[simp] theorem State.raiseError_objCount (e : CmdError) : (s.raiseError e).objCount = s.objCount := rfl
@[simp] theorem State.raiseError_dl (e : CmdError) : (s.raiseError e).dl = s.dl := rfl
@[simp] theorem State.raiseError_th (e : CmdError) : (s.raiseError e).th = s.th := rfl
@[simp] theorem State.raiseError_ah (e : CmdError) : (s.raiseError e).ah = s.ah := rfl
@[simp] theorem State.raiseError_oh (e : CmdError) : (s.raiseError e).oh = s.oh := rfl
@[simp] theorem State.raiseError_inBuf (e : CmdError) : (s.raiseError e).inBuf = s.inBuf := rfl
@[simp] theorem State.raiseError_outBuf (e : CmdError) : (s.raiseError e).outBuf = s.outBuf := rfl
@[simp] theorem State.raiseError_env (e : CmdError) : (s.raiseError e).env = s.env := rfl
@[simp] theorem State.raiseError_host (e : CmdError) : (s.raiseError e).host = s.host := rfl
@[simp] theorem State.raiseError_rdata (e : CmdError) : (s.raiseError e).rdata = s.rdata := rfl
@[simp] theorem State.raiseError_polling (e : CmdError) : (s.raiseError e).polling = s.polling := rfl
@[simp] theorem State.raiseError_draws (e : CmdError) : (s.raiseError e).draws = s.draws := rfl

/-! ### resetEvent -/

@[simp] theorem State.resetEvent_cfg : (s.resetEvent).cfg = s.cfg := rfl
@[simp] theorem State.resetEvent_pend : (s.resetEvent).pend = none := rfl
@[simp] theorem State.resetEvent_busy : (s.resetEvent).busy = false := rfl
@[simp] theorem State.resetEvent_done : (s.resetEvent).done = false := rfl
@[simp] theorem State.resetEvent_err : (s.resetEvent).err = 0 := rfl
@[simp] theorem State.resetEvent_errInfo0 : (s.resetEvent).errInfo0 = 0 := rfl
@[simp] theorem State.resetEvent_errInfo1 : (s.resetEvent).errInfo1 = 0 := rfl
@[simp] theorem State.resetEvent_inLen : (s.resetEvent).inLen = 0 := rfl
@[simp] theorem State.resetEvent_outLen : (s.resetEvent).outLen = 0 := rfl
@[simp] theorem State.resetEvent_inOff : (s.resetEvent).inOff = 0 := rfl
@[simp] theorem State.resetEvent_consumed : (s.resetEvent).consumed = 0 := rfl
@[simp] theorem State.resetEvent_crc : (s.resetEvent).crc = 0 := rfl
@[simp] theorem State.resetEvent_rlen : (s.resetEvent).rlen = { len := 0, kind := 0 } := rfl
@[simp] theorem State.resetEvent_objCount : (s.resetEvent).objCount = 0 := rfl
@[simp] theorem State.resetEvent_dl : (s.resetEvent).dl = { len := 0, ctrl := 0, dest := 0, src := 0 } := rfl
@[simp] theorem State.resetEvent_th : (s.resetEvent).th = { fin := false, fir := false, seq := 0 } := rfl
@[simp] theorem State.resetEvent_ah :
    (s.resetEvent).ah = { fir := false, fin := false, con := false, uns := false, seq := 0, fc := 0, iin := 0 } := rfl
@[simp] theorem State.resetEvent_oh : (s.resetEvent).oh = { group := 0, var := 0, qual := 0, a := 0, b := 0 } := rfl
@[simp] theorem State.resetEvent_inBuf : (s.resetEvent).inBuf = [] := rfl
@[simp] theorem State.resetEvent_outBuf : (s.resetEvent).outBuf = [] := rfl
@[simp] theorem State.resetEvent_env : (s.resetEvent).env = s.env := rfl
@[simp] theorem State.resetEvent_host : (s.resetEvent).host = s.host := rfl
@[simp] theorem State.resetEvent_rdata : (s.resetEvent).rdata = s.rdata := rfl
@[simp] theorem State.resetEvent_polling : (s.resetEvent).polling = false := rfl
@[simp] theorem State.resetEvent_draws : (s.resetEvent).draws = s.draws := rfl

/-! ### observe -/

@[simp] theorem State.observe_cfg (v : Word) : (s.observe v).cfg = s.cfg := rfl
@[simp] theorem State.observe_pend (v : Word) : (s.observe v).pend = s.pend := rfl
@[simp] theorem State.observe_busy (v : Word) : (s.observe v).busy = s.busy := rfl
@[simp] theorem State.observe_done (v : Word) : (s.observe v).done = s.done := rfl
@[simp] theorem State.observe_err (v : Word) : (s.observe v).err = s.err := rfl
@[simp] theorem State.observe_errInfo0 (v : Word) : (s.observe v).errInfo0 = s.errInfo0 := rfl
@[simp] theorem State.observe_errInfo1 (v : Word) : (s.observe v).errInfo1 = s.errInfo1 := rfl
@[simp] theorem State.observe_inLen (v : Word) : (s.observe v).inLen = s.inLen := rfl
@[simp] theorem State.observe_outLen (v : Word) : (s.observe v).outLen = s.outLen := rfl
@[simp] theorem State.observe_inOff (v : Word) : (s.observe v).inOff = s.inOff := rfl
@[simp] theorem State.observe_consumed (v : Word) : (s.observe v).consumed = s.consumed := rfl
@[simp] theorem State.observe_crc (v : Word) : (s.observe v).crc = s.crc := rfl
@[simp] theorem State.observe_rlen (v : Word) : (s.observe v).rlen = s.rlen := rfl
@[simp] theorem State.observe_objCount (v : Word) : (s.observe v).objCount = s.objCount := rfl
@[simp] theorem State.observe_dl (v : Word) : (s.observe v).dl = s.dl := rfl
@[simp] theorem State.observe_th (v : Word) : (s.observe v).th = s.th := rfl
@[simp] theorem State.observe_ah (v : Word) : (s.observe v).ah = s.ah := rfl
@[simp] theorem State.observe_oh (v : Word) : (s.observe v).oh = s.oh := rfl
@[simp] theorem State.observe_inBuf (v : Word) : (s.observe v).inBuf = s.inBuf := rfl
@[simp] theorem State.observe_outBuf (v : Word) : (s.observe v).outBuf = s.outBuf := rfl
@[simp] theorem State.observe_env (v : Word) : (s.observe v).env = s.env := rfl
@[simp] theorem State.observe_host (v : Word) : (s.observe v).host = s.host := rfl
@[simp] theorem State.observe_rdata (v : Word) : (s.observe v).rdata = some v := rfl
@[simp] theorem State.observe_polling (v : Word) : (s.observe v).polling = (s.polling && s.busy) := rfl
@[simp] theorem State.observe_draws (v : Word) : (s.observe v).draws = s.draws := rfl

end Sys2Proof.Machine
end

