-- ==== Sys2Proof/Laws/Ops.lean ====
section
/-! SUPPORT. What the shared operations can do, once each: how a command ends (`complete`), and where its operands and its
output come from (`readIn`, `checkIn`, `unpackInput`, `emitOut`, `need`). -/

namespace Sys2Proof.Machine

variable {s t : State}

/-! ### How a command ends -/

@[simp] theorem complete_ok (s t : State) : complete s (.ok t) = .next t.succeed := rfl

@[simp] theorem complete_raise (s : State) (e : CmdError) :
    complete s (.error (.raise e)) = .next (s.raiseError e) := rfl

@[simp] theorem complete_fault (s : State) (f : Fault) : complete s (.error (.fault f)) = .fault f := rfl

/-- Everything `complete` can answer with a next state: a success, or an error that wrote nothing else. -/
theorem complete_next {r : Except Stop State} (h : complete s r = .next t) :
    (∃ u, r = .ok u ∧ t = u.succeed) ∨ (∃ e, r = .error (.raise e) ∧ t = s.raiseError e) := by
  match r, h with
  | .ok u, h => exact .inl ⟨u, rfl, by simpa using h.symm⟩
  | .error (.raise e), h => exact .inr ⟨e, rfl, by simpa using h.symm⟩

/-- A command never refuses. -/
theorem complete_ne_refused (r : Except Stop State) (x : Refusal) : complete s r ≠ .refused x := by
  match r with
  | .ok u => simp
  | .error (.raise e) => simp
  | .error (.fault f) => simp

/-- A command faults only as its pseudocode does. -/
theorem complete_eq_fault {r : Except Stop State} {f : Fault} (h : complete s r = .fault f) :
    r = .error (.fault f) := by
  match r, h with
  | .ok u, h => simp at h
  | .error (.raise e), h => simp at h
  | .error (.fault g), h => simpa using h

/-- An error's code is one of 1 to 8, never 0 (60_exceptions.md R128). -/
theorem CmdError.code_bounds (e : CmdError) : 1 ≤ e.code.toNat ∧ e.code.toNat ≤ 8 := by
  cases e <;> simp [CmdError.code]

theorem State.succeed_eq_completed (s : State) : s.succeed = s.completed := rfl

theorem State.raiseError_eq_failed (s : State) (e : CmdError) : s.raiseError e = s.failed e.code e.info0 e.info1 := rfl

@[simp] theorem raises_ok {α : Type} (a : α) : raises (.ok a : Except CmdError α) = .ok a := rfl

@[simp] theorem raises_error {α : Type} (e : CmdError) :
    raises (.error e : Except CmdError α) = .error (.raise e) := rfl

/-! ### A sequence of steps of a command's pseudocode -/

@[simp] theorem ok_bind {ε α β : Type} (a : α) (f : α → Except ε β) :
    (Except.ok a >>= f : Except ε β) = f a := rfl

@[simp] theorem error_bind {ε α β : Type} (e : ε) (f : α → Except ε β) :
    (Except.error e >>= f : Except ε β) = .error e := rfl

/-- A sequence succeeds exactly when both of its parts do. -/
theorem bind_eq_ok {ε α β : Type} {x : Except ε α} {f : α → Except ε β} {b : β} :
    (x >>= f) = .ok b ↔ ∃ a, x = .ok a ∧ f a = .ok b := by
  cases x <;> simp

/-- A sequence fails exactly when its first part does, or its second part does after the first. -/
theorem bind_eq_error {ε α β : Type} {x : Except ε α} {f : α → Except ε β} {e : ε} :
    (x >>= f) = .error e ↔ x = .error e ∨ ∃ a, x = .ok a ∧ f a = .error e := by
  cases x <;> simp

theorem raises_eq_ok {α : Type} {x : Except CmdError α} {a : α} : raises x = .ok a ↔ x = .ok a := by
  cases x <;> simp

theorem raises_eq_error {α : Type} {x : Except CmdError α} {r : Stop} :
    raises x = .error r ↔ ∃ e, x = .error e ∧ r = .raise e := by
  cases x <;> simp [eq_comm]

/-! ### Operands and output -/

/-- `CheckIn` succeeds exactly with the valid input string. -/
theorem State.checkIn_eq_ok {str : List Byte} : s.checkIn = .ok str ↔ s.inputIs str := by
  unfold State.checkIn State.readIn State.inputIs
  split_ifs with h
  · simp only [false_iff, not_and]
    intro hl hc
    omega
  · split
    · rename_i bs hbs
      have hb := Memory.readAll_eq_ok.1 hbs
      simp only [Nat.zero_add] at hb
      constructor
      · intro e
        obtain rfl : bs = str := by simpa using e
        exact ⟨hb.1.symm, by omega, fun j hj => hb.2 j (by omega)⟩
      · rintro ⟨hl, -, hr⟩
        have := (Memory.readAll_eq_ok (m := s.inBuf) (a := 0) (n := s.inLen.toNat)).2
          ⟨hl.symm, fun j hj => by simpa using hr j (by omega)⟩
        simpa [hbs] using this
    · rename_i i hi
      simp only [reduceCtorEq, false_iff, not_and]
      intro hl _ hr
      have := (Memory.readAll_eq_ok (m := s.inBuf) (a := 0) (n := s.inLen.toNat)).2
        ⟨hl.symm, fun j hj => by simpa using hr j (by omega)⟩
      simp [hi] at this

/-- `CheckIn` stops in two ways: IN_LEN_RANGE, or the fault of the first unwritten byte. -/
theorem State.checkIn_eq_error {r : Stop} : s.checkIn = .error r ↔
    (s.cfg.inCap < s.inLen.toNat ∧ r = .raise (.programmerError (.inLenRange s.inLen.toNat))) ∨
    (s.inLen.toNat ≤ s.cfg.inCap ∧ ∃ i, i < s.inLen.toNat ∧ s.inBuf.read i = none ∧
      (∀ j, j < i → (s.inBuf.read j).isSome) ∧ r = .fault (.unwrittenInput i)) := by
  unfold State.checkIn State.readIn
  split_ifs with h
  · have : ¬ s.inLen.toNat ≤ s.cfg.inCap := by omega
    simp only [Except.error.injEq, gt_iff_lt.1 h, this, true_and, false_and, or_false]
    exact eq_comm
  · have h' : s.inLen.toNat ≤ s.cfg.inCap := by omega
    cases hr : s.inBuf.readAll 0 s.inLen.toNat with
    | ok bs =>
      simp only [reduceCtorEq, h, h', false_and, true_and, false_or, false_iff, not_exists, not_and]
      intro i hi hn _ _
      have := (Memory.readAll_eq_ok.1 hr).2 i hi
      have hl := (Memory.readAll_eq_ok.1 hr).1
      rw [Nat.zero_add, hn, List.getElem?_eq_getElem (by omega)] at this
      cases this
    | error i =>
      have hi := Memory.readAll_eq_error.1 hr
      simp only [Nat.zero_add, Nat.zero_le, true_and, forall_const] at hi
      simp only [Except.error.injEq, h, h', false_and, true_and, false_or]
      constructor
      · rintro rfl
        exact ⟨i, hi.1, hi.2.1, hi.2.2, rfl⟩
      · rintro ⟨k, hk1, hk2, hk3, rfl⟩
        have := (Memory.readAll_eq_error (a := 0) (n := s.inLen.toNat)).2
          ⟨Nat.zero_le k, by omega, hk2, fun j _ hj => hk3 j hj⟩
        rw [hr] at this
        simpa using this

/-- `EmitOut` succeeds exactly when the output fits OUT. -/
theorem State.emitOut_eq_ok {out : List Byte} :
    s.emitOut out = .ok t ↔ out.length ≤ s.cfg.outCap ∧ t = s.setOutput out := by
  unfold State.emitOut
  split_ifs with h
  · simp only [false_iff, not_and]; omega
  · simp only [Except.ok.injEq, eq_comm]; constructor
    · intro e; exact ⟨by omega, e⟩
    · exact fun e => e.2

/-- `EmitOut` stops in one way: OUT_OVERFLOW. -/
theorem State.emitOut_eq_error {out : List Byte} {r : Stop} :
    s.emitOut out = .error r ↔
      s.cfg.outCap < out.length ∧ r = .raise (.programmerError (.outOverflow out.length)) := by
  unfold State.emitOut
  split_ifs with h
  · simp [h, eq_comm]
  · simp only [false_iff, not_and]; omega

/-- `UnpackInput` succeeds exactly with the valid input string and an offset within it. -/
theorem State.unpackInput_eq_ok {str : List Byte} {o : Nat} :
    s.unpackInput = .ok (str, o) ↔ s.inputIs str ∧ o = s.inOff.toNat ∧ o ≤ str.length := by
  unfold State.unpackInput
  rw [bind_eq_ok]
  constructor
  · rintro ⟨x, hx, h⟩
    split_ifs at h with hl
    simp only [Except.ok.injEq, Prod.mk.injEq] at h
    obtain ⟨rfl, rfl⟩ := h
    exact ⟨State.checkIn_eq_ok.1 hx, rfl, by omega⟩
  · rintro ⟨hs, rfl, hl⟩
    exact ⟨str, State.checkIn_eq_ok.2 hs, by rw [if_neg (by omega)]⟩

/-- `Need` succeeds exactly when enough bytes remain. -/
theorem need_eq_ok {str : List Byte} {o n : Nat} {k : HeaderKind} {u : Unit} :
    need str o n k = .ok u ↔ n ≤ str.length - o := by
  unfold need
  split_ifs with h
  · simp only [false_iff]; omega
  · simp only [true_iff]; omega

/-- `Need` stops in one way: TRUNCATED_HEADER. -/
theorem need_eq_error {str : List Byte} {o n : Nat} {k : HeaderKind} {e : CmdError} :
    need str o n k = .error e ↔ str.length - o < n ∧ e = .truncatedHeader o k n (str.length - o) := by
  unfold need
  split_ifs with h
  · simp [h, eq_comm]
  · simp [h]

/-- The output a command staged with `EmitOut` is its output string, if its length fits OUT_LEN. -/
theorem State.setOutput_emits (s : State) (out : List Byte) (h : out.length < 65536) :
    s.emits (s.setOutput out) out := by
  refine ⟨by simp; omega, fun j => ?_, rfl⟩
  rw [State.setOutput_outBuf, Memory.read_writeAll]
  by_cases hj : j < out.length
  · rw [if_pos (by omega), if_pos hj]; rfl
  · rw [if_neg (by omega), if_neg hj]

end Sys2Proof.Machine
end

