-- ==== Sys2Proof/Laws/Exec.lean ====
section
/-! SUPPORT. What each command's pseudocode can answer, once each: `exec` is `complete` of a body, and the body succeeds
exactly when its operands are read, its codec succeeds and its output fits. -/

namespace Sys2Proof.Machine

/-- The pseudocode of a command: the state with its writes applied, or how it stopped. -/
def body (i : Instr) (s : State) : Except Stop State :=
  match i with
  | .crc16 => do
    let str ← s.checkIn
    .ok (s.setCrc (crc16 s.cfg str))
  | .addCrc => do
    let str ← s.checkIn
    s.emitOut (addChecksums s.cfg str)
  | .stripCrc => do
    let f ← s.checkIn
    let str ← raises (stripAndVerify s.cfg f 0)
    s.emitOut str
  | .packDl => s.emitOut (encDl s.dl)
  | .unpackDl => do
    let (str, o) ← s.unpackInput
    let (h, k) ← raises (decDl str o)
    .ok ((s.setDl h).setConsumed k)
  | .packTh => s.emitOut (encTh s.th)
  | .unpackTh => do
    let (str, o) ← s.unpackInput
    let (h, k) ← raises (decTh str o)
    .ok ((s.setTh h).setConsumed k)
  | .packAh => s.emitOut (encAh s.cfg s.ah)
  | .unpackAh => do
    let (str, o) ← s.unpackInput
    let (h, k) ← raises (decAh s.cfg str o)
    .ok ((s.setAh h).setConsumed k)
  | .packOh => do
    let out ← raises (encOh s.cfg s.oh)
    s.emitOut out
  | .unpackOh => do
    let (str, o) ← s.unpackInput
    let (h, k) ← raises (decOh s.cfg str o)
    .ok (((s.setOh h.hdr).setRlen (rangeReg h.kind h.rl)).setConsumed k)
  | .rangeLen => do
    let (kind, rl) ← raises (rangeLenAt s.cfg 0 s.oh.qual)
    .ok (s.setRlen (rangeReg kind rl))
  | .buildRead => do
    let rs ← s.readRanges
    let f ← raises (buildReadRequest s.cfg s.dl.src s.dl.dest s.ah.seq s.th.seq rs)
    s.emitOut f
  | .parseFrame => do
    let f ← s.checkIn
    let p ← raises (parseFrame s.cfg f)
    let t ← s.emitOut (p.objs.flatMap record)
    .ok ((((t.setDl p.dl).setTh p.th).setAh p.ah).setObjCount p.objs.length)

/-- Every command completes its pseudocode. -/
theorem exec_eq_complete (i : Instr) (s : State) : exec i s = complete s (body i s) := by cases i <;> rfl

variable {s t u : State}

/-- Everything a command can answer with a next state: its pseudocode's writes and success, or an error and nothing
else. -/
theorem exec_next {i : Instr} (h : exec i s = .next t) :
    (∃ u, body i s = .ok u ∧ t = u.succeed) ∨ (∃ e, body i s = .error (.raise e) ∧ t = s.raiseError e) :=
  complete_next (exec_eq_complete i s ▸ h)

theorem exec_of_body_ok {i : Instr} (h : body i s = .ok u) : exec i s = .next u.succeed := by
  rw [exec_eq_complete, h, complete_ok]

theorem exec_of_body_raise {i : Instr} {e : CmdError} (h : body i s = .error (.raise e)) :
    exec i s = .next (s.raiseError e) := by
  rw [exec_eq_complete, h, complete_raise]

theorem exec_of_body_fault {i : Instr} {f : Fault} (h : body i s = .error (.fault f)) : exec i s = .fault f := by
  rw [exec_eq_complete, h, complete_fault]

/-! ### When a body succeeds -/

theorem body_crc16_ok : body .crc16 s = .ok u ↔ ∃ str, s.inputIs str ∧ u = s.setCrc (crc16 s.cfg str) := by
  simp only [body, bind_eq_ok, State.checkIn_eq_ok, Except.ok.injEq]
  grind

theorem body_addCrc_ok : body .addCrc s = .ok u ↔ ∃ str, s.inputIs str ∧
    (addChecksums s.cfg str).length ≤ s.cfg.outCap ∧ u = s.setOutput (addChecksums s.cfg str) := by
  simp only [body, bind_eq_ok, State.checkIn_eq_ok, State.emitOut_eq_ok]

theorem body_stripCrc_ok : body .stripCrc s = .ok u ↔ ∃ f, s.inputIs f ∧ ∃ str, stripAndVerify s.cfg f 0 = .ok str ∧
    str.length ≤ s.cfg.outCap ∧ u = s.setOutput str := by
  simp only [body, bind_eq_ok, State.checkIn_eq_ok, State.emitOut_eq_ok, raises_eq_ok]

theorem body_packDl_ok : body .packDl s = .ok u ↔ (encDl s.dl).length ≤ s.cfg.outCap ∧ u = s.setOutput (encDl s.dl) :=
  State.emitOut_eq_ok

theorem body_packTh_ok : body .packTh s = .ok u ↔ (encTh s.th).length ≤ s.cfg.outCap ∧ u = s.setOutput (encTh s.th) :=
  State.emitOut_eq_ok

theorem body_packAh_ok : body .packAh s = .ok u ↔
    (encAh s.cfg s.ah).length ≤ s.cfg.outCap ∧ u = s.setOutput (encAh s.cfg s.ah) :=
  State.emitOut_eq_ok

theorem body_packOh_ok : body .packOh s = .ok u ↔ ∃ out, encOh s.cfg s.oh = .ok out ∧
    out.length ≤ s.cfg.outCap ∧ u = s.setOutput out := by
  simp only [body, bind_eq_ok, State.emitOut_eq_ok, raises_eq_ok]

theorem body_unpackDl_ok : body .unpackDl s = .ok u ↔ ∃ str, s.inputIs str ∧ s.inOff.toNat ≤ str.length ∧
    ∃ h k, decDl str s.inOff.toNat = .ok (h, k) ∧ u = (s.setDl h).setConsumed k := by
  simp only [body, bind_eq_ok, Prod.exists, State.unpackInput_eq_ok, raises_eq_ok, Except.ok.injEq]
  grind

theorem body_unpackTh_ok : body .unpackTh s = .ok u ↔ ∃ str, s.inputIs str ∧ s.inOff.toNat ≤ str.length ∧
    ∃ h k, decTh str s.inOff.toNat = .ok (h, k) ∧ u = (s.setTh h).setConsumed k := by
  simp only [body, bind_eq_ok, Prod.exists, State.unpackInput_eq_ok, raises_eq_ok, Except.ok.injEq]
  grind

theorem body_unpackAh_ok : body .unpackAh s = .ok u ↔ ∃ str, s.inputIs str ∧ s.inOff.toNat ≤ str.length ∧
    ∃ h k, decAh s.cfg str s.inOff.toNat = .ok (h, k) ∧ u = (s.setAh h).setConsumed k := by
  simp only [body, bind_eq_ok, Prod.exists, State.unpackInput_eq_ok, raises_eq_ok, Except.ok.injEq]
  grind

theorem body_unpackOh_ok : body .unpackOh s = .ok u ↔ ∃ str, s.inputIs str ∧ s.inOff.toNat ≤ str.length ∧
    ∃ h k, decOh s.cfg str s.inOff.toNat = .ok (h, k) ∧
      u = ((s.setOh h.hdr).setRlen (rangeReg h.kind h.rl)).setConsumed k := by
  simp only [body, bind_eq_ok, Prod.exists, State.unpackInput_eq_ok, raises_eq_ok, Except.ok.injEq]
  grind

theorem body_rangeLen_ok : body .rangeLen s = .ok u ↔ ∃ kind rl, rangeLen s.cfg s.oh.qual = some (kind, rl) ∧
    u = s.setRlen (rangeReg kind rl) := by
  simp only [body, bind_eq_ok, Prod.exists, raises_eq_ok, Except.ok.injEq, rangeLenAt]
  cases rangeLen s.cfg s.oh.qual <;> simp [eq_comm]

/-- `ReadRanges` succeeds exactly with the records of an input of whole records. -/
theorem State.readRanges_eq_ok {rs : List ReadRange} :
    s.readRanges = .ok rs ↔ ∃ str, s.inputIs str ∧ str.length % 4 = 0 ∧ rs = rangesOf str := by
  unfold State.readRanges
  rw [bind_eq_ok]
  constructor
  · rintro ⟨str, hs, h⟩
    split_ifs at h with h4
    exact ⟨str, State.checkIn_eq_ok.1 hs, not_not.1 h4, by simpa using h.symm⟩
  · rintro ⟨str, hs, h4, rfl⟩
    exact ⟨str, State.checkIn_eq_ok.2 hs, by rw [if_neg (by simpa using h4)]⟩

theorem body_buildRead_ok : body .buildRead s = .ok u ↔ ∃ str, s.inputIs str ∧ str.length % 4 = 0 ∧
    ∃ f, buildReadRequest s.cfg s.dl.src s.dl.dest s.ah.seq s.th.seq (rangesOf str) = .ok f ∧
      f.length ≤ s.cfg.outCap ∧ u = s.setOutput f := by
  simp only [body, bind_eq_ok, State.readRanges_eq_ok, raises_eq_ok, State.emitOut_eq_ok]
  grind

theorem body_parseFrame_ok : body .parseFrame s = .ok u ↔ ∃ f, s.inputIs f ∧ ∃ p, parseFrame s.cfg f = .ok p ∧
    (p.objs.flatMap record).length ≤ s.cfg.outCap ∧
    u = (((((s.setOutput (p.objs.flatMap record)).setDl p.dl).setTh p.th).setAh p.ah).setObjCount p.objs.length) := by
  simp only [body, bind_eq_ok, State.checkIn_eq_ok, raises_eq_ok, State.emitOut_eq_ok, Except.ok.injEq]
  grind

end Sys2Proof.Machine
end

