-- ==== Sys2Proof/Laws/Codec.lean ====
section
/-! SUPPORT. What the codecs can answer, once each: the configuration's bounds, the qualifier tables, the encoders byte by
byte, and the decoders R93, R95, R97 and R99 with the bytes they consume. -/

namespace Sys2Proof.Machine

/-! ### The configuration -/

/-- The bounds of R13 that a legal configuration gives. -/
theorem cfg_bounds {c : Cfg} (h : c.legal = true) :
    c.poly ≠ 0 ∧ 1 ≤ c.inCap ∧ c.inCap ≤ 8192 ∧ 1 ≤ c.outCap ∧ c.outCap ≤ 16384 ∧
      c.inCap + 2 * ((c.inCap + 15) / 16) ≤ c.outCap ∧ 12 * ((c.inCap - 11) / 3) ≤ c.outCap := by
  simp [Cfg.legal, Cfg.polyLegal, Cfg.outCapLegal, Cfg.inCapLegal, Cfg.capsFit] at h
  obtain ⟨⟨⟨⟨h1, -⟩, h2⟩, h3⟩, h4⟩ := h
  exact ⟨h1, by omega⟩

/-- `HasIIN` (R96) as a proposition. -/
theorem hasIin_iff {c : Cfg} {fc : Byte} : hasIin c fc = true ↔ carriesIin c fc := by
  simp [hasIin, carriesIin]

/-! ### Qualifiers -/

/-- The kinds and lengths both tables hold (30_encoding.md R66, R67). -/
theorem rangeLen_rows {c : Cfg} {q : Byte} {k : RangeKind} {rl : Nat} (h : rangeLen c q = some (k, rl)) :
    (k = .none ∧ rl = 0) ∨ (k = .startStop ∧ (rl = 2 ∨ rl = 4 ∨ rl = 8)) ∨
      (k = .count ∧ (rl = 1 ∨ rl = 2 ∨ rl = 4)) := by
  unfold rangeLen rangeLenDoc rangeLenStd at h
  split at h <;> split at h <;> grind

/-- RLEN of a row of a table is legal. -/
theorem rangeReg_legal {c : Cfg} {q : Byte} {k : RangeKind} {rl : Nat} (h : rangeLen c q = some (k, rl)) :
    (rangeReg k rl).legal = true := by
  rcases rangeLen_rows h with ⟨rfl, rfl⟩ | ⟨rfl, rfl | rfl | rfl⟩ | ⟨rfl, rfl | rfl | rfl⟩ <;> rfl

theorem rangeLenAt_eq_ok {c : Cfg} {o : Nat} {q : Byte} {r : RangeKind × Nat} :
    rangeLenAt c o q = .ok r ↔ rangeLen c q = some r := by
  unfold rangeLenAt; split <;> simp_all

theorem rangeLenAt_eq_error {c : Cfg} {o : Nat} {q : Byte} {e : CmdError} :
    rangeLenAt c o q = .error e ↔ rangeLen c q = none ∧ e = .unsupportedQualifier o q := by
  unfold rangeLenAt
  cases rangeLen c q <;> simp [eq_comm]

/-! ### Little-endian fields -/

@[simp] theorem leN_length (v n : Nat) : (leN v n).length = n := by
  induction n generalizing v with
  | zero => rfl
  | succ n ih => simp [leN, ih]

/-- `leN` is the low bytes of the value, by number. -/
theorem leN_eq_wireLe (v : Word) (n : Nat) : leN v.toNat n = wireLe v n := by
  have key : ∀ (n k : Nat), leN (v.toNat / 2 ^ (8 * k)) n = (List.range n).map fun j => v.extractLsb' (8 * (k + j)) 8 := by
    intro n
    induction n with
    | zero => intro k; rfl
    | succ n ih =>
      intro k
      rw [leN, List.range_succ_eq_map, List.map_cons, List.map_map, Nat.div_div_eq_div_mul]
      congr 1
      · apply BitVec.eq_of_toNat_eq
        simp [BitVec.extractLsb'_toNat, Nat.shiftRight_eq_div_pow]
      · rw [show 2 ^ (8 * k) * 256 = 2 ^ (8 * (k + 1)) by rw [Nat.mul_add, Nat.pow_add], ih (k + 1)]
        apply List.map_congr_left
        intro j _
        simp only [Function.comp_apply]
        congr 2
        omega
  simpa [wireLe] using key n 0

theorem fromLE_lt (s : List Byte) : fromLE s < 2 ^ (8 * s.length) := by
  induction s with
  | nil => simp [fromLE]
  | cons b s ih =>
    have := b.isLt
    rw [fromLE, List.length_cons, Nat.mul_add, Nat.pow_add]
    omega

/-- `fromLE` inverts `leN` on a value that fits. -/
theorem fromLE_leN (v n : Nat) (h : v < 2 ^ (8 * n)) : fromLE (leN v n) = v := by
  induction n generalizing v with
  | zero => simp [leN, fromLE] at h ⊢; omega
  | succ n ih =>
    rw [leN, fromLE, ih]
    · simp; omega
    · rw [Nat.mul_add, Nat.pow_add] at h; omega

/-! ### The encoders -/

theorem encDl_eq (h : DlHeader) : encDl h = wireDl h := rfl

theorem encTh_eq (h : ThHeader) : encTh h = wireTh h := rfl

theorem encAh_eq (c : Cfg) (h : AhHeader) : encAh c h = wireAh c h := by
  unfold encAh wireAh
  by_cases hc : carriesIin c h.fc
  · rw [if_pos (hasIin_iff.2 hc), if_pos hc]; rfl
  · rw [if_neg (mt hasIin_iff.1 hc), if_neg hc]; rfl

theorem fits_eq_ok {v : Word} {w : Nat} {r : Reg} {u : Unit} : fits v w r = .ok u ↔ v.toNat < 2 ^ (8 * w) := by
  unfold fits; split_ifs with h <;> simp <;> omega

theorem fits_eq_error {v : Word} {w : Nat} {r : Reg} {e : CmdError} :
    fits v w r = .error e ↔ 2 ^ (8 * w) ≤ v.toNat ∧ e = .programmerError (.operandRange r.offset) := by
  unfold fits; split_ifs with h
  · simp [h, eq_comm]
  · simp; omega

/-- `EncOH` succeeds exactly when the qualifier is in the table and the values its kind carries fit; the output is then the
header's wire bytes. -/
theorem encOh_eq_ok {c : Cfg} {h : OhHeader} {out : List Byte} : encOh c h = .ok out ↔
    ∃ kind rl, rangeLen c h.qual = some (kind, rl) ∧
      (kind = .startStop → h.a.toNat < 2 ^ (8 * (rl / 2)) ∧ h.b.toNat < 2 ^ (8 * (rl / 2))) ∧
      (kind = .count → h.a.toNat < 2 ^ (8 * rl)) ∧ out = wireObj { hdr := h, kind := kind, rl := rl } := by
  unfold encOh
  simp only [bind_eq_ok, Prod.exists, rangeLenAt_eq_ok]
  refine exists_congr fun kind => exists_congr fun rl => and_congr_right fun _ => ?_
  cases kind <;> simp only [encRange, bind_eq_ok, fits_eq_ok, wireObj, wireRange, leN_eq_wireLe, Except.ok.injEq,
    reduceCtorEq, false_imp_iff, forall_const, true_and, exists_const, and_assoc, exists_and_left] <;>
    simp [eq_comm]

/-! ### The decoders: what they consume -/

theorem decDl_eq_ok {str : List Byte} {o k : Nat} {h : DlHeader} : decDl str o = .ok (h, k) ↔
    8 ≤ str.length - o ∧ byteAt str o = 0x05 ∧ byteAt str (o + 1) = 0x64 ∧ k = 8 ∧
      h = { len := byteAt str (o + 2), ctrl := byteAt str (o + 3), dest := halfAt str (o + 4),
            src := halfAt str (o + 6) } := by
  unfold decDl
  simp only [bind_eq_ok, need_eq_ok]
  constructor
  · rintro ⟨-, hn, h2⟩
    split_ifs at h2 with hs
    simp only [Except.ok.injEq, Prod.mk.injEq] at h2
    exact ⟨hn, hs.1, hs.2, h2.2.symm, h2.1.symm⟩
  · rintro ⟨hn, h0, h1, rfl, rfl⟩
    exact ⟨(), hn, if_pos ⟨h0, h1⟩⟩

theorem decTh_eq_ok {str : List Byte} {o k : Nat} {h : ThHeader} : decTh str o = .ok (h, k) ↔
    1 ≤ str.length - o ∧ k = 1 ∧ h = thOfByte (byteAt str o) := by
  unfold decTh
  simp only [bind_eq_ok, need_eq_ok, Except.ok.injEq, Prod.mk.injEq]
  constructor
  · rintro ⟨-, hn, rfl, rfl⟩
    exact ⟨hn, rfl, rfl⟩
  · rintro ⟨hn, rfl, rfl⟩
    exact ⟨(), hn, rfl, rfl⟩

theorem decAh_eq_ok {c : Cfg} {str : List Byte} {o k : Nat} {h : AhHeader} : decAh c str o = .ok (h, k) ↔
    2 ≤ str.length - o ∧
      ((carriesIin c (byteAt str (o + 1)) ∧ 4 ≤ str.length - o ∧ k = 4 ∧
          h = ahOfFields (byteAt str o) (byteAt str (o + 1)) (halfAt str (o + 2))) ∨
        (¬ carriesIin c (byteAt str (o + 1)) ∧ k = 2 ∧ h = ahOfFields (byteAt str o) (byteAt str (o + 1)) 0)) := by
  unfold decAh
  simp only [bind_eq_ok, need_eq_ok]
  by_cases hc : carriesIin c (byteAt str (o + 1))
  · rw [if_pos (hasIin_iff.2 hc)]
    simp only [bind_eq_ok, need_eq_ok, Except.ok.injEq, Prod.mk.injEq, exists_const]
    constructor
    · rintro ⟨h2, h4, rfl, rfl⟩
      exact ⟨h2, .inl ⟨hc, h4, rfl, rfl⟩⟩
    · rintro ⟨h2, ⟨-, h4, rfl, rfl⟩ | ⟨hn, -⟩⟩
      · exact ⟨h2, h4, rfl, rfl⟩
      · exact absurd hc hn
  · rw [if_neg (mt hasIin_iff.1 hc)]
    simp only [Except.ok.injEq, Prod.mk.injEq, exists_const]
    constructor
    · rintro ⟨h2, rfl, rfl⟩
      exact ⟨h2, .inr ⟨hc, rfl, rfl⟩⟩
    · rintro ⟨h2, ⟨hp, -⟩ | ⟨-, rfl, rfl⟩⟩
      · exact absurd hp hc
      · exact ⟨h2, rfl, rfl⟩

theorem decOh_eq_ok {c : Cfg} {str : List Byte} {o k : Nat} {h : ObjHeader} : decOh c str o = .ok (h, k) ↔
    rangeLen c (byteAt str (o + 2)) = some (h.kind, h.rl) ∧ 3 + h.rl ≤ str.length - o ∧ k = 3 + h.rl ∧
      h.hdr = { group := byteAt str o, var := byteAt str (o + 1), qual := byteAt str (o + 2),
                a := (decRange h.kind h.rl (slice str (o + 3) h.rl)).1,
                b := (decRange h.kind h.rl (slice str (o + 3) h.rl)).2 } := by
  unfold decOh
  simp only [bind_eq_ok, need_eq_ok, Prod.exists, rangeLenAt_eq_ok, Except.ok.injEq, Prod.mk.injEq, exists_const]
  constructor
  · rintro ⟨-, kind, rl, hr, hn, rfl, rfl⟩
    exact ⟨hr, hn, rfl, rfl⟩
  · rintro ⟨hr, hn, rfl, hh⟩
    refine ⟨by omega, h.kind, h.rl, hr, hn, ?_, rfl⟩
    cases h
    simp only [ObjHeader.mk.injEq, and_true]
    exact hh.symm

/-- A decoded object header's qualifier gives its kind and length, and its length is at most 8. -/
theorem decOh_row {c : Cfg} {str : List Byte} {o k : Nat} {h : ObjHeader} (hd : decOh c str o = .ok (h, k)) :
    rangeLen c h.hdr.qual = some (h.kind, h.rl) ∧ h.rl ≤ 8 ∧ o + k ≤ str.length := by
  obtain ⟨hr, hn, rfl, hh⟩ := decOh_eq_ok.1 hd
  have := rangeLen_rows hr
  exact ⟨by rw [hh]; exact hr, by grind, by omega⟩

/-! ### The checksum, one block at a time -/

/-- The blocks of a string longer than 16 bytes. -/
theorem chunk_append_block (blk s : List Byte) (h : blk.length = 16) : chunk (blk ++ s) = blk :: chunk s := by
  unfold chunk
  rw [show ((blk ++ s).length + 15) / 16 = (s.length + 15) / 16 + 1 by simp [h]; omega]
  simp [chunkN, ← h]

/-- The block of a string of 1 to 16 bytes. -/
theorem chunk_short (s : List Byte) (h : 1 ≤ s.length) (h' : s.length ≤ 16) : chunk s = [s] := by
  unfold chunk
  rw [show (s.length + 15) / 16 = 1 by omega]
  simp [chunkN, List.take_of_length_le h']

theorem addChecksums_append_block (c : Cfg) (blk s : List Byte) (h : blk.length = 16) :
    addChecksums c (blk ++ s) = withCrc c blk ++ addChecksums c s := by
  simp [addChecksums, chunk_append_block blk s h]

theorem addChecksums_short (c : Cfg) (s : List Byte) (h : 1 ≤ s.length) (h' : s.length ≤ 16) :
    addChecksums c s = withCrc c s := by
  simp [addChecksums, chunk_short s h h']

@[simp] theorem withCrc_length (c : Cfg) (blk : List Byte) : (withCrc c blk).length = blk.length + 2 := by
  simp [withCrc, le16]

/-- Stripping goes on past a full block and its two CRC bytes. -/
theorem stripAndVerify_append_block (c : Cfg) (blk f : List Byte) (lo hi : Byte) (k : Nat) (h : blk.length = 16) :
    stripAndVerify c (blk ++ lo :: hi :: f) k = (do
      let b ← verifyBlock c k blk [lo, hi]
      let rest ← stripAndVerify c f (k + 1)
      .ok (b ++ rest)) := by
  unfold stripAndVerify
  rw [show (blk ++ lo :: hi :: f).length / 18 = f.length / 18 + 1 by simp [h]; omega]
  have h1 : (blk ++ lo :: hi :: f).take 16 = blk := by rw [List.take_append_of_le_length (by omega), ← h, List.take_length]
  have h2 : (blk ++ lo :: hi :: f).drop 16 = lo :: hi :: f := by rw [← h, List.drop_left]
  have h3 : (blk ++ lo :: hi :: f).drop 18 = f := by rw [show 18 = 16 + 2 from rfl, ← List.drop_drop, h2]; rfl
  rw [stripBlocks, h1, h2, h3]
  rfl

/-- Stripping a tail of one short block and its two CRC bytes. -/
theorem stripAndVerify_short (c : Cfg) (blk : List Byte) (lo hi : Byte) (k : Nat) (h : 1 ≤ blk.length)
    (h' : blk.length ≤ 15) : stripAndVerify c (blk ++ [lo, hi]) k = verifyBlock c k blk [lo, hi] := by
  unfold stripAndVerify
  have hl : (blk ++ [lo, hi]).length = blk.length + 2 := by simp
  rw [show (blk ++ [lo, hi]).length / 18 = 0 by omega, stripBlocks, stripTail, if_neg (by omega), if_neg (by omega), hl]
  simp

theorem stripAndVerify_nil (c : Cfg) (k : Nat) : stripAndVerify c [] k = .ok [] := rfl

/-- One block's check. -/
theorem verifyBlock_eq (c : Cfg) (k : Nat) (blk : List Byte) (lo hi : Byte) : verifyBlock c k blk [lo, hi] =
    if crc16 c blk = hi ++ lo then .ok blk else .error (.checksumMismatch k (crc16 c blk) (hi ++ lo)) := rfl

/-! ### Fields and bytes -/

/-- A word16 is its high byte and its low byte. -/
theorem half_split (v : Half) : v.extractLsb' 8 8 ++ v.extractLsb' 0 8 = v := by
  apply BitVec.eq_of_toNat_eq
  have := v.isLt
  rw [BitVec.toNat_append]
  simp only [BitVec.extractLsb'_toNat, Nat.shiftRight_eq_div_pow]
  rw [← Nat.shiftLeft_add_eq_or_of_lt (by omega), Nat.shiftLeft_eq]
  omega

/-- The transport byte holds every field. -/
theorem thOfByte_byte (h : ThHeader) : thOfByte h.byte = h := by
  obtain ⟨fin, fir, seq⟩ := h
  revert fin fir seq
  decide +kernel

/-- Every byte is a transport header's. -/
theorem byte_thOfByte (b : Byte) : (thOfByte b).byte = b := by
  revert b
  decide +kernel

/-- The control byte, function code and IIN field hold every field. -/
theorem ahOfFields_control (h : AhHeader) : ahOfFields h.control h.fc h.iin = h := by
  obtain ⟨fir, fin, con, uns, seq, fc, iin⟩ := h
  have key : ∀ (fir fin con uns : Bool) (seq : BitVec 4),
      ahOfFields (BitVec.ofBool fir ++ BitVec.ofBool fin ++ BitVec.ofBool con ++ BitVec.ofBool uns ++ seq) 0 0 =
        { fir := fir, fin := fin, con := con, uns := uns, seq := seq, fc := 0, iin := 0 } := by
    decide +kernel
  have := key fir fin con uns seq
  simp only [ahOfFields, AhHeader.mk.injEq, and_true] at this
  simp only [ahOfFields, AhHeader.control, AhHeader.mk.injEq, and_true]
  exact this

/-- The RLEN byte of a row of a table, by number. -/
theorem rangeReg_byte {c : Cfg} {q : Byte} {k : RangeKind} {rl : Nat} (h : rangeLen c q = some (k, rl)) :
    (rangeReg k rl).byte = BitVec.ofNat 8 (k.code.toNat * 16 + rl) := by
  rcases rangeLen_rows h with ⟨rfl, rfl⟩ | ⟨rfl, rfl | rfl | rfl⟩ | ⟨rfl, rfl | rfl | rfl⟩ <;> rfl

theorem le32_eq_wireLe (v : Word) : le32 v = wireLe v 4 := rfl

/-- The record of a decoded header, byte by byte. -/
theorem record_eq {c : Cfg} {o : ObjHeader} (h : rangeLen c o.hdr.qual = some (o.kind, o.rl)) :
    record o = wireRecord o := by
  unfold record wireRecord
  rw [rangeReg_byte h]
  rfl

end Sys2Proof.Machine
end

