-- ==== Sys2Proof/Laws/HostPort.lean ====
section
/-! SUPPORT. What the host's accesses can do, once each: where an allowed access lands, and everything a read or a write can
answer. -/

namespace Sys2Proof.Machine

variable {s t : State}

/-- An access that lands in IN covers bytes inside it. -/
theorem access_inBuf {c : Cfg} {off i : Nat} {w : Width} (h : access c off w = .ok (.inBuf i)) :
    off = 0x2000 + i ∧ i + w.bytes ≤ c.inCap ∧ (w = .w8 ∨ w = .w32 ∧ i % 4 = 0) := by
  unfold access placeOf at h
  split at h
  · cases h
  · rename_i p hp
    split at h
    · simp only [Except.ok.injEq] at h
      subst h
      rename_i hw
      split_ifs at hp with h1 h2 h3
      · simp at hp
      · simp at hp
        simp [checkWidth, checkBuffer] at hw
        split at hw
        · simp [Width.bytes]; omega
        · split_ifs at hw
          simp [Width.bytes]; omega
        · cases hw
        · cases hw
      · simp at hp
    · cases h

/-- A register's offset reaches it, by an aligned 32-bit access. -/
theorem access_reg (c : Cfg) (r : Reg) : access c r.offset .w32 = .ok (.reg r) := by cases r <;> rfl

/-- The register whose word starts at an offset. -/
theorem regAtOffset_eq_some {off : Nat} {r : Reg} : regAtOffset off = some r ↔ off = r.offset := by
  constructor
  · intro h
    unfold regAtOffset at h
    split at h <;> cases h <;> rfl
  · rintro rfl
    cases r <;> rfl

/-- Everything a host write can answer: a write to a register or to IN by an allowed access outside the busy interval, or a
host fault. -/
theorem hostWrite_cases (s : State) (off : Nat) (w : Width) (v : Word) :
    (∃ r, s.hostWrite off w v = .error (.hostFault r off w)) ∨
    (s.awaiting = false ∧ ∃ r, access s.cfg off w = .ok (.reg r) ∧ s.hostWrite off w v = .ok (s.writeReg r v)) ∨
    (s.awaiting = false ∧ ∃ i, access s.cfg off w = .ok (.inBuf i) ∧
      s.hostWrite off w v = .ok { s with inBuf := s.inBuf.writeAll i ((le32 v).take w.bytes) }) := by
  unfold State.hostWrite
  cases access s.cfg off w with
  | error r => exact .inl ⟨r, rfl⟩
  | ok p =>
    cases p with
    | outBuf i => exact .inl ⟨_, rfl⟩
    | reg r => cases hb : s.awaiting <;> simp
    | inBuf i => cases hb : s.awaiting <;> simp

/-- Everything a host read can answer: a draw in the busy interval, the value of an allowed place, or a host fault. -/
theorem hostRead_cases (s : State) (off : Nat) (w : Width) :
    (∃ r, s.hostRead off w = .error (.hostFault r off w)) ∨
    (s.awaiting = true ∧ s.hostRead off w =
      .ok (drawValue s.draws w, { s with rdata := some (drawValue s.draws w), draws := s.draws + 1 })) ∨
    (∃ p v, access s.cfg off w = .ok p ∧ (s.awaiting = false ∨ p = .reg .status) ∧ s.readPlace w p = .ok v ∧
      s.hostRead off w = .ok (v, s.observe v)) := by
  unfold State.hostRead
  cases access s.cfg off w with
  | error r => exact .inl ⟨r, rfl⟩
  | ok p =>
    dsimp only
    split_ifs with h
    · exact .inr (.inl ⟨h.1, rfl⟩)
    · have hb : s.awaiting = false ∨ p = .reg .status := by
        cases hb : s.awaiting
        · exact .inl rfl
        · exact .inr (by_contra fun hp => h ⟨hb, hp⟩)
      cases hr : s.readPlace w p with
      | error r => exact .inl ⟨r, rfl⟩
      | ok v => exact .inr (.inr ⟨p, v, rfl, hb, hr, rfl⟩)

@[simp] theorem awaiting_eq_false : s.awaiting = false ↔ s.busy = false ∧ s.polling = false := by simp [State.awaiting]

@[simp] theorem awaiting_eq_true : s.awaiting = true ↔ s.busy = true ∨ s.polling = true := by simp [State.awaiting]

/-- Outside the busy interval a read changes nothing but the observation. -/
theorem observe_of_idle (h : s.awaiting = false) (v : Word) : s.observe v = { s with rdata := some v } := by
  simp only [State.observe, (awaiting_eq_false.1 h).2, Bool.false_and]

/-- A read leaves everything but the busy interval and the two observation fields. -/
theorem hostRead_frame {off : Nat} {w : Width} {v : Word} (h : s.hostRead off w = .ok (v, t)) :
    t = { s with rdata := some v, polling := t.polling, draws := t.draws } := by
  rcases hostRead_cases s off w with ⟨r, e⟩ | ⟨-, e⟩ | ⟨p, x, -, -, -, e⟩
  · simp [e] at h
  · rw [e] at h
    simp only [Except.ok.injEq, Prod.mk.injEq] at h
    obtain ⟨rfl, rfl⟩ := h
    rfl
  · rw [e] at h
    simp only [Except.ok.injEq, Prod.mk.injEq] at h
    obtain ⟨rfl, rfl⟩ := h
    rfl

/-- A write keeps the configuration, the host, the schedule and OUT. -/
theorem hostWrite_frame {off : Nat} {w : Width} {v : Word} (h : s.hostWrite off w v = .ok t) :
    t.cfg = s.cfg ∧ t.host = s.host ∧ t.env = s.env ∧ t.outBuf = s.outBuf := by
  rcases hostWrite_cases s off w v with ⟨r, e⟩ | ⟨-, r, -, e⟩ | ⟨-, i, -, e⟩
  · simp [e] at h
  · rw [e] at h
    simp only [Except.ok.injEq] at h
    subst h
    cases r <;> exact ⟨rfl, rfl, rfl, rfl⟩
  · rw [e] at h
    simp only [Except.ok.injEq] at h
    subst h
    exact ⟨rfl, rfl, rfl, rfl⟩

end Sys2Proof.Machine
end

