-- ==== Sys2Proof/Laws/PerInstr.lean ====
section
/-! SUPPORT. Per-instruction facts about the encoding (30_encoding.md R71, R72): family `RoundTrip`. -/

namespace Sys2Proof.Laws.RoundTrip

/-- The command's word passes the checks of R74, has the opcode in its low byte and nothing above, and decodes, as the
opcode table numbers its bits, to the command. -/
def Statement (i : Instr) : Prop :=
  i.wellFormed = true ∧ wellFormedWord (encode i) = true ∧ (encode i).toNat = (opcodeOf i).toNat ∧
    decodeTableWord 32 (encode i).toNat = some i

theorem crc16 : Statement .crc16 := ⟨rfl, rfl, rfl, rfl⟩

theorem addCrc : Statement .addCrc := ⟨rfl, rfl, rfl, rfl⟩

theorem stripCrc : Statement .stripCrc := ⟨rfl, rfl, rfl, rfl⟩

theorem packDl : Statement .packDl := ⟨rfl, rfl, rfl, rfl⟩

theorem unpackDl : Statement .unpackDl := ⟨rfl, rfl, rfl, rfl⟩

theorem packTh : Statement .packTh := ⟨rfl, rfl, rfl, rfl⟩

theorem unpackTh : Statement .unpackTh := ⟨rfl, rfl, rfl, rfl⟩

theorem packAh : Statement .packAh := ⟨rfl, rfl, rfl, rfl⟩

theorem unpackAh : Statement .unpackAh := ⟨rfl, rfl, rfl, rfl⟩

theorem packOh : Statement .packOh := ⟨rfl, rfl, rfl, rfl⟩

theorem unpackOh : Statement .unpackOh := ⟨rfl, rfl, rfl, rfl⟩

theorem rangeLen : Statement .rangeLen := ⟨rfl, rfl, rfl, rfl⟩

theorem buildRead : Statement .buildRead := ⟨rfl, rfl, rfl, rfl⟩

theorem parseFrame : Statement .parseFrame := ⟨rfl, rfl, rfl, rfl⟩

end Sys2Proof.Laws.RoundTrip
end

