-- ==== Sys2Proof/Tests/Slice0.lean ====
section
/-! SUPPORT. The model's own tests: the checks of WellFormed refuse ill-formed terms, each opcode decodes from its bits, the
worked vectors of 95_test_vectors.md, and for each obligation with hypotheses a state that meets them together. -/

namespace Sys2Proof.Tests

open Sys2Proof.Machine

set_option Elab.async false

/-! ### Helpers -/

/-- A state just after reset with configuration c, the input bytes written and IN_LEN and IN_OFF set. -/
def inp (c : Cfg) (bs : List Byte) (off : Half := 0) : State :=
  { State.reset with
    cfg := c, inLen := BitVec.ofNat 16 bs.length, inOff := off, inBuf := Memory.writeAll [] 0 bs }

theorem inp_inputIs (c : Cfg) (bs : List Byte) (off : Half) (h : bs.length ≤ c.inCap) (h' : c.inCap ≤ 8192) :
    (inp c bs off).inputIs bs := by
  refine ⟨?_, h, fun j hj => ?_⟩
  · simp only [inp, BitVec.toNat_ofNat]
    omega
  · simp only [inp]
    rw [Memory.read_writeAll, if_pos (by omega)]
    rfl

/-- The state after an outcome. -/
def after (o : Host.Outcome State Fault Refusal) : State := (nextState o).getD State.reset

/-- STATUS.ERR and the two information words after an outcome. -/
def errOf (o : Host.Outcome State Fault Refusal) : Option (Byte × Word × Word) :=
  (nextState o).map fun t => (t.err, t.errInfo0, t.errInfo1)

/-- STATUS and the output string after an outcome. -/
def outOf (o : Host.Outcome State Fault Refusal) : Option (Word × List (Option Byte)) :=
  (nextState o).map fun t => (t.statusWord, (List.range t.outLen.toNat).map t.outBuf.read)

/-- The words of some registers after an outcome. -/
def regsOf (o : Host.Outcome State Fault Refusal) (rs : List Reg) : Option (List Word) :=
  (nextState o).map fun t => rs.map t.regWord

/-- A host that gives t's output back as input (70_reset_and_hazards.md R156). -/
def fed (t : State) : State :=
  { State.reset with cfg := t.cfg, inLen := t.outLen, inBuf := t.outBuf }

/-- What `errOf` says of an outcome. -/
theorem of_errOf {o : Host.Outcome State Fault Refusal} {e : Byte} {i0 i1 : Word} (h : errOf o = some (e, i0, i1)) :
    o = .next (after o) ∧ (after o).err = e := by
  match o, h with
  | .next t, h =>
    simp only [errOf, nextState, Option.map_some, Option.some.injEq, Prod.mk.injEq] at h
    exact ⟨rfl, h.1⟩

def cfgF : Cfg := { Cfg.default with xorout := 0xFFFF }
def cfgS0 : Cfg := { Cfg.default with hdrBlock := .separate }
def cfgStd : Cfg := { Cfg.default with qualMap := .std }
def cfgR : Cfg := { Cfg.default with appIin := .resp }

/-- The 18-byte frame of 95_test_vectors.md section 2.8.1 under the defaults. -/
def frameG : List Byte :=
  [0x05, 0x64, 0x0D, 0xC4, 0x0A, 0x00, 0x01, 0x00, 0xC0, 0xC0, 0x01, 0x1E, 0x01, 0x00, 0x00, 0x09, 0x1B, 0x35]

/-! ### WellFormed refuses -/

/-- R71: bit 8 set. -/
theorem test_reserved_bit_refused : reservedClear 0x00000101 = false := by decide

/-- R74: opcode 0x04. -/
theorem test_opcode_refused : opcodeAssigned 0x04 = false := by decide

/-- R74: opcode of PARSE_FRAME with bit 31 set, and opcode 0x19. -/
theorem test_word_refused : wellFormedWord 0x80000021 = false ∧ wellFormedWord 0x00000019 = false := by decide

/-- R7. -/
theorem test_poly_refused : { Cfg.default with poly := 0 }.polyLegal = false := by decide

/-- R8. -/
theorem test_xorout_refused : { Cfg.default with xorout := 0x1234 }.xoroutLegal = false := by decide

/-- 00_scope.md section 4. -/
theorem test_inCap_refused :
    { Cfg.default with inCap := 0 }.inCapLegal = false ∧ { Cfg.default with inCap := 8193 }.inCapLegal = false := by
  decide

/-- 00_scope.md section 4. -/
theorem test_outCap_refused :
    { Cfg.default with outCap := 0 }.outCapLegal = false ∧ { Cfg.default with outCap := 16385 }.outCapLegal = false := by
  decide

/-- R13: OUT_CAP = 2303 does not hold ADD_CRC of 2048 bytes; OUT_CAP = 8147 does not hold 679 records. -/
theorem test_caps_refused :
    { Cfg.default with outCap := 2303 }.capsFit = false ∧ { Cfg.default with outCap := 8147 }.capsFit = false := by
  decide

/-- A configuration is legal only if all its checks pass; the defaults are. -/
theorem test_legal : Cfg.default.legal = true ∧ { Cfg.default with poly := 0 }.legal = false := by decide

/-- A label past the end of the program. -/
theorem test_label_refused : labelsInside [.jmp 2] = false := by decide

/-- A buffer that is not canonical: indexes that do not rise. -/
theorem test_memory_refused : Memory.wf [(1, 0), (1, 0)] = false ∧ Memory.inside [(4, 0)] 4 = false := by decide

/-- KIND 3 is never written (R27). -/
theorem test_rlen_refused : RangeReg.legal { len := 2, kind := 3 } = false := by decide

/-! ### Decoding, from the bits of R71 and R72 -/

theorem test_decode_crc16 : decodeWord 0b00000000000000000000000000000001 = .ok .crc16 := by decide
theorem test_decode_addCrc : decodeWord 0b00000000000000000000000000000010 = .ok .addCrc := by decide
theorem test_decode_stripCrc : decodeWord 0b00000000000000000000000000000011 = .ok .stripCrc := by decide
theorem test_decode_packDl : decodeWord 0b00000000000000000000000000010000 = .ok .packDl := by decide
theorem test_decode_unpackDl : decodeWord 0b00000000000000000000000000010001 = .ok .unpackDl := by decide
theorem test_decode_packTh : decodeWord 0b00000000000000000000000000010010 = .ok .packTh := by decide
theorem test_decode_unpackTh : decodeWord 0b00000000000000000000000000010011 = .ok .unpackTh := by decide
theorem test_decode_packAh : decodeWord 0b00000000000000000000000000010100 = .ok .packAh := by decide
theorem test_decode_unpackAh : decodeWord 0b00000000000000000000000000010101 = .ok .unpackAh := by decide
theorem test_decode_packOh : decodeWord 0b00000000000000000000000000010110 = .ok .packOh := by decide
theorem test_decode_unpackOh : decodeWord 0b00000000000000000000000000010111 = .ok .unpackOh := by decide
theorem test_decode_rangeLen : decodeWord 0b00000000000000000000000000011000 = .ok .rangeLen := by decide
theorem test_decode_buildRead : decodeWord 0b00000000000000000000000000100000 = .ok .buildRead := by decide
theorem test_decode_parseFrame : decodeWord 0b00000000000000000000000000100001 = .ok .parseFrame := by decide

/-- From window bytes, least significant first (20_memory.md R42), and each way a word is refused. -/
theorem test_decode_bytes :
    decodeBytes [0x21, 0x00, 0x00, 0x00, 0xAA] = .ok (.parseFrame, [0xAA]) ∧
      decodeBytes [0x00, 0x00, 0x00, 0x21] = .error .reservedBitsSet ∧
      decodeBytes [0x22, 0x00, 0x00, 0x00] = .error .opcodeUnassigned ∧
      decodeBytes [0x21, 0x00, 0x00] = .error .truncated := by
  decide

/-! ### Commands, from 95_test_vectors.md section 2 -/

/-- Section 2.1: the CRC-16/DNP check string under both P_XOROUT values. -/
theorem test_crc16_check :
    regsOf (exec .crc16 (inp Cfg.default [0x31, 0x32, 0x33, 0x34, 0x35, 0x36, 0x37, 0x38, 0x39])) [.crc, .status] =
        some [0x157D, 2] ∧
      regsOf (exec .crc16 (inp cfgF [0x31, 0x32, 0x33, 0x34, 0x35, 0x36, 0x37, 0x38, 0x39])) [.crc] = some [0xEA82] := by
  decide +kernel

/-- Section 2.1: IN_LEN = 2049. -/
theorem test_crc16_too_long : errOf (exec .crc16 { State.reset with inLen := 2049 }) = some (7, 1, 0x801) := by decide

/-- Section 2.2: n = 17, two blocks, low CRC byte first. -/
theorem test_addCrc_two_blocks :
    outOf (exec .addCrc (inp Cfg.default [1, 2, 3, 4, 5, 6, 7, 8, 9, 10, 11, 12, 13, 14, 15, 16, 17])) =
      some (2, [1, 2, 3, 4, 5, 6, 7, 8, 9, 10, 11, 12, 13, 14, 15, 16, 0x0D, 0x5A, 17, 0x35, 0x84].map some) := by
  decide +kernel

/-- Section 2.3: F21 stripped, and with bit 0 of byte 18 flipped. -/
theorem test_stripCrc :
    outOf (exec .stripCrc (inp Cfg.default
        [1, 2, 3, 4, 5, 6, 7, 8, 9, 10, 11, 12, 13, 14, 15, 16, 0x0D, 0x5A, 17, 0x35, 0x84])) =
      some (2, [1, 2, 3, 4, 5, 6, 7, 8, 9, 10, 11, 12, 13, 14, 15, 16, 17].map some) ∧
    errOf (exec .stripCrc (inp Cfg.default
        [1, 2, 3, 4, 5, 6, 7, 8, 9, 10, 11, 12, 13, 14, 15, 16, 0x0D, 0x5A, 16, 0x35, 0x84])) =
      some (1, 1, 0x8435B26B) := by
  decide +kernel

/-- Section 2.3: a tail of 2 bytes. -/
theorem test_stripCrc_tail : errOf (exec .stripCrc (inp Cfg.default [0x05, 0x64])) = some (5, 0, 2) := by decide +kernel

/-- Section 2.4. -/
theorem test_packDl :
    outOf (exec .packDl { State.reset with dl := { len := 0xFF, ctrl := 0x44, dest := 0xFFFF, src := 0x1234 } }) =
      some (2, [0x05, 0x64, 0xFF, 0x44, 0xFF, 0xFF, 0x34, 0x12].map some) := by
  decide +kernel

/-- Section 2.4: at IN_OFF = 1, and start bytes 05 65. -/
theorem test_unpackDl :
    regsOf (exec .unpackDl (inp Cfg.default [0xAA, 0x05, 0x64, 0x0D, 0xC4, 0x0A, 0x00, 0x01, 0x00] 1))
        [.dl0, .dl1, .consumed] = some [0x0000C40D, 0x0001000A, 8] ∧
      errOf (exec .unpackDl (inp Cfg.default [0x05, 0x65, 0x0D, 0xC4, 0x0A, 0x00, 0x01, 0x00])) =
        some (4, 0, 0x00006505) := by
  decide +kernel

/-- Section 2.4: 7 bytes. -/
theorem test_unpackDl_short :
    errOf (exec .unpackDl (inp Cfg.default [0x05, 0x64, 0x0D, 0xC4, 0x0A, 0x00, 0x01])) = some (2, 0, 0x00070801) := by
  decide +kernel

/-- Section 2.5: FIN is bit 7, FIR bit 6. -/
theorem test_packTh :
    outOf (exec .packTh { State.reset with th := { fin := true, fir := false, seq := 0 } }) = some (2, [some 0x80]) := by
  decide +kernel

/-- Section 2.5. -/
theorem test_unpackTh :
    (nextState (exec .unpackTh (inp Cfg.default [0x7F]))).map (fun t => (t.th, t.consumed)) =
      some ({ fin := false, fir := true, seq := 63 }, 1) := by
  decide +kernel

/-- Section 2.6: IIN under RESP, low byte first, and without RESP. -/
theorem test_packAh :
    outOf (exec .packAh (inp cfgR [] |>.writeReg .ah 0x123482FF)) = some (2, [0xFF, 0x82, 0x34, 0x12].map some) ∧
      outOf (exec .packAh (inp Cfg.default [] |>.writeReg .ah 0x123482FF)) = some (2, [0xFF, 0x82].map some) := by
  decide +kernel

/-- Section 2.6: AH under RESP, and a response header with no IIN bytes. -/
theorem test_unpackAh :
    regsOf (exec .unpackAh (inp cfgR [0xC0, 0x81, 0x80, 0x00])) [.ah, .consumed] = some [0x008081C0, 4] ∧
      errOf (exec .unpackAh (inp cfgR [0xC6, 0x81])) = some (2, 0, 0x00020403) := by
  decide +kernel

/-- Section 2.7.2: a 16-bit start/stop, and OH_B too wide. -/
theorem test_packOh :
    outOf (exec .packOh { State.reset with oh := { group := 1, var := 1, qual := 0x10, a := 0x0102, b := 0x0304 } }) =
        some (2, [0x01, 0x01, 0x10, 0x02, 0x01, 0x04, 0x03].map some) ∧
      errOf (exec .packOh { State.reset with oh := { group := 30, var := 1, qual := 0x00, a := 0, b := 0x100 } }) =
        some (7, 4, 0x48) := by
  decide +kernel

/-- Section 2.7.2: a 32-bit count; the two maps differ. -/
theorem test_packOh_count :
    outOf (exec .packOh
        { State.reset with oh := { group := 2, var := 1, qual := 0x50, a := 0xDEADBEEF, b := 0 } }) =
        some (2, [0x02, 0x01, 0x50, 0xEF, 0xBE, 0xAD, 0xDE].map some) ∧
      outOf (exec .packOh
        { State.reset with cfg := cfgStd, oh := { group := 1, var := 2, qual := 0x28, a := 0x0102, b := 0 } }) =
        some (2, [0x01, 0x02, 0x28, 0x02, 0x01].map some) := by
  decide +kernel

/-- Section 2.7.3: one input under both maps. -/
theorem test_unpackOh :
    regsOf (exec .unpackOh (inp Cfg.default [0x01, 0x01, 0x10, 0x02, 0x01, 0x04, 0x03]))
        [.oh0, .ohA, .ohB, .rlen, .consumed] = some [0x00100101, 0x0102, 0x0304, 0x14, 7] ∧
      regsOf (exec .unpackOh (inp cfgStd [0x01, 0x01, 0x10, 0x02, 0x01, 0x04, 0x03]))
        [.oh0, .ohA, .ohB, .rlen, .consumed] = some [0x00100101, 0x02, 0x01, 0x12, 5] := by
  decide +kernel

/-- Section 2.7.3: bucket 0x20 one byte short. -/
theorem test_unpackOh_short :
    errOf (exec .unpackOh (inp Cfg.default [0x01, 0x01, 0x20, 0, 0, 0, 0, 0, 0, 0])) = some (2, 0, 0x000A0B04) := by
  decide +kernel

/-- Section 2.7.1: qualifiers 0x5B and 0x0A under both maps. -/
theorem test_rangeLen :
    regsOf (exec .rangeLen { State.reset with oh := { State.reset.oh with qual := 0x5B } }) [.rlen] = some [0x24] ∧
      regsOf (exec .rangeLen { State.reset with cfg := cfgStd, oh := { State.reset.oh with qual := 0x5B } }) [.rlen] =
        some [0x21] ∧
      errOf (exec .rangeLen { State.reset with cfg := cfgStd, oh := { State.reset.oh with qual := 0x0A } }) =
        some (6, 0, 0x0A) ∧
      errOf (exec .rangeLen { State.reset with oh := { State.reset.oh with qual := 0xFF } }) = some (6, 0, 0xFF) := by
  decide +kernel

/-- Section 2.8.1: one range, FLAT and SEPARATE. -/
theorem test_buildRead :
    outOf (exec .buildRead (inp Cfg.default [0x1E, 0x01, 0x00, 0x09] |>.writeReg .dl1 0x0001000A)) =
        some (2, frameG.map some) ∧
      outOf (exec .buildRead (inp cfgS0 [0x1E, 0x01, 0x00, 0x09] |>.writeReg .dl1 0x0001000A)) =
        some (2, [0x05, 0x64, 0x0D, 0xC4, 0x0A, 0x00, 0x01, 0x00, 0x8A, 0x45, 0xC0, 0xC0, 0x01, 0x1E, 0x01, 0x00, 0x00,
          0x09, 0x16, 0x31].map some) := by
  decide +kernel

/-- Section 2.8.5: a list of 5 bytes. -/
theorem test_buildRead_shape : errOf (exec .buildRead (inp Cfg.default [1, 1, 0, 0, 1])) = some (7, 6, 5) := by
  decide +kernel

/-- Sections 2.9.1 and 2.8.1. -/
theorem test_parseFrame :
    regsOf (exec .parseFrame (inp Cfg.default frameG)) [.dl0, .dl1, .th, .ah, .objCount, .outLen] =
        some [0x0000C40D, 0x0001000A, 0x000000C0, 0x000001C0, 1, 12] ∧
      outOf (exec .parseFrame (inp Cfg.default frameG)) =
        some (2, [0x1E, 0x01, 0x00, 0x12, 0x00, 0x00, 0x00, 0x00, 0x09, 0x00, 0x00, 0x00].map some) := by
  decide +kernel

/-- Section 2.9.2: bit 0 of byte 0 flipped, and the frame read under SEPARATE. -/
theorem test_parseFrame_corrupt :
    errOf (exec .parseFrame (inp Cfg.default (flipBit frameG 0 0))) = some (1, 0, 0x351B7897) ∧
      errOf (exec .parseFrame (inp cfgS0 frameG)) = some (1, 0, 0xC0C0458A) := by
  decide +kernel

/-! ### The lifecycle and the host, from section 2.10 -/

/-- A command word with bit 8 set. -/
theorem test_illegal :
    regsOf (step (State.reset.withFetchWord 32 0x101)) [.status, .errInfo0, .errInfo1, .crc] =
      some [0x00000802, 0x00000101, 0, 0] := by
  decide +kernel

/-- A write of 0xFFFF0012 to IN_LEN, and STATUS after a write to CMD. -/
theorem test_host_writes :
    ((State.reset.hostWrite 0x10 .w32 0xFFFF0012).toOption.map fun t => t.regWord .inLen) = some 0x00000012 ∧
      ((State.reset.hostWrite 0x00 .w32 0x01).toOption.map fun t => t.regWord .status) = some 0x00000001 := by
  decide +kernel

/-- The reset state in a configuration whose busy interval ends at completion (10_state.md R24, R32). -/
def atCompletion : State := { State.reset with cfg := { Cfg.default with busyEnd := .atCompletion } }

/-- There, a field register may be written as soon as the command has completed (R24), and not before (R33). -/
theorem test_completion_interval :
    ((atCompletion.issueCommand 0x12).succeed.hostWrite 0x38 .w32 0x15).toOption.map (fun t => t.regWord .th) =
      some 0x15 ∧
    ((atCompletion.issueCommand 0x12).hostWrite 0x38 .w32 0x15).toOption = none := by
  decide +kernel

/-- After completion and before STATUS has been read a write faults; the read ends the interval (R154). -/
theorem test_poll_interval :
    (match (State.reset.issueCommand 0x12).succeed.hostWrite 0x10 .w32 1 with
      | .error f => some f | .ok _ => none) = some (.hostFault .writeWhileBusy 0x10 .w32) ∧
    (match (State.reset.issueCommand 0x12).succeed.hostRead 0x04 .w32 with
      | .error _ => none
      | .ok (v, t) => some (v, (t.hostWrite 0x10 .w32 1).toOption.map fun u => u.inLen)) = some (2, some 1) := by
  decide +kernel

/-- A read of an unwritten byte of OUT faults (10_state.md R30). -/
theorem test_host_unwritten :
    State.reset.hostRead 0x4000 .w8 = .error (.hostFault .unwritten 0x4000 .w8) := by
  rfl

/-- A host statement: `wr8 IN+h0, 0x1AB` writes one byte, at the index in h0 (30_encoding.md R75). -/
theorem test_host_statement :
    (nextState (step { State.reset with
        host := { HostAgent.idle with
          prog := [.wr8 (.inBuf (.reg 0)) (.imm 0x1AB)], regs := HostAgent.idle.regs.set 0 5 } })).map
      (fun t => (t.inBuf, t.host.pc)) = some ([(5, 0xAB)], 1) := by
  decide +kernel

/-- In a legal configuration with IN_CAP = 1 and OUT_CAP = 3, PACK_DL overflows OUT (assumption 18). -/
theorem test_small_capacity :
    { Cfg.default with inCap := 1, outCap := 3 }.legal = true ∧
      errOf (exec .packDl { State.reset with cfg := { Cfg.default with inCap := 1, outCap := 3 } }) =
        some (7, 3, 8) := by
  decide +kernel

/-! ### Witnesses: a state and operands that meet each obligation's hypotheses -/

/-- An object header of each range kind, at the largest values its field carries. -/
def objS : ObjHeader :=
  { hdr := { group := 1, var := 2, qual := 0x00, a := 0xFF, b := 0xFF }, kind := .startStop, rl := 2 }
def objC : ObjHeader :=
  { hdr := { group := 1, var := 2, qual := 0x50, a := 0xFFFFFFFF, b := 0 }, kind := .count, rl := 4 }
def objN : ObjHeader := { hdr := { group := 60, var := 1, qual := 0x60, a := 0, b := 0 }, kind := .none, rl := 0 }

/-- An application header whose function code carries IIN under RESP. -/
def ahResp : AhHeader := { fir := true, fin := true, con := false, uns := false, seq := 3, fc := 0x82, iin := 0x1234 }

/-- A data-link header. -/
def dlOne : DlHeader := { len := 0x0D, ctrl := 0xC4, dest := 10, src := 1 }

/-- A transport header. -/
def thOne : ThHeader := { fin := true, fir := true, seq := 0 }

/-- The defaults as an input state, the hypothesis the command statements share. -/
theorem inp_default (bs : List Byte) (off : Half) (h : bs.length ≤ 2048) : (inp Cfg.default bs off).inputIs bs :=
  inp_inputIs _ _ _ h (by decide)

theorem inp_sep (bs : List Byte) (off : Half) (h : bs.length ≤ 2048) : (inp cfgS0 bs off).inputIs bs :=
  inp_inputIs _ _ _ h (by decide)

theorem inp_resp (bs : List Byte) (off : Half) (h : bs.length ≤ 2048) : (inp cfgR bs off).inputIs bs :=
  inp_inputIs _ _ _ h (by decide)

/-- Both turns; and every clause of the statement's disjunction, at the ends of its range. -/
theorem witness_IllegalWordCompletesWithIllegalCommand :
    (({ State.reset with pend := some 0x00000100 } : State).env = [] ∧
      ({ State.reset with pend := some 0x00000100 } : State).pend = some 0x00000100) ∧
    (({ State.reset with pend := some 0x00000100, env := [.engine, .host] } : State).env = .engine :: [.host] ∧
      ({ State.reset with pend := some 0x00000100, env := [.engine, .host] } : State).pend = some 0x00000100) ∧
    (0x00000100 : Word).extractLsb' 8 24 ≠ 0 ∧
    ((0x00000101 : Word).extractLsb' 8 24 ≠ 0 ∧ (0x80000021 : Word).extractLsb' 8 24 ≠ 0) ∧
    ((0x00000000 : Word).setWidth 8).toNat = 0x00 ∧
    (0x04 ≤ ((0x04 : Word).setWidth 8).toNat ∧ ((0x0F : Word).setWidth 8).toNat ≤ 0x0F) ∧
    (0x19 ≤ ((0x19 : Word).setWidth 8).toNat ∧ ((0x1F : Word).setWidth 8).toNat ≤ 0x1F) ∧
    (0x22 ≤ ((0x22 : Word).setWidth 8).toNat ∧ ((0xFF : Word).setWidth 8).toNat ≤ 0xFF) := by
  refine ⟨⟨rfl, rfl⟩, ⟨rfl, rfl⟩, ?_⟩
  decide

theorem witness_StepRunsTheDecodedCommand :
    decodeWord 0x21 = .ok .parseFrame ∧
    (({ State.reset with pend := some 0x21 } : State).env = [] ∧
      ({ State.reset with pend := some 0x21 } : State).pend = some 0x21) ∧
    ({ State.reset with pend := some 0x21, env := [.engine, .host] } : State).env = .engine :: [.host] :=
  ⟨rfl, ⟨rfl, rfl⟩, rfl⟩

theorem witness_Crc16WritesTheChecksum : (inp Cfg.default [0x01]).inputIs [0x01] := inp_default _ _ (by decide)

theorem witness_AddCrcOutputsTheFramedString :
    (inp Cfg.default [0x01]).cfg.legal = true ∧ (inp Cfg.default [0x01]).inputIs [0x01] :=
  ⟨by decide, inp_default _ _ (by decide)⟩

theorem witness_StripCrcOutputsTheString :
    (inp Cfg.default (addChecksums Cfg.default [0x01])).cfg.legal = true ∧
      (inp Cfg.default (addChecksums Cfg.default [0x01])).inputIs (addChecksums Cfg.default [0x01]) :=
  ⟨by decide, inp_default _ _ (by decide)⟩

/-- OUT_CAP at exactly the bytes PACK_DL needs; PACK_TH; PACK_AH. -/
theorem witness_PackDlOutputsTheHeader :
    8 ≤ ({ State.reset with cfg := { Cfg.default with outCap := 8 } } : State).cfg.outCap := by decide
theorem witness_PackThOutputsTheHeader :
    1 ≤ ({ State.reset with cfg := { Cfg.default with outCap := 1 } } : State).cfg.outCap := by decide
/-- The 4-byte and the 2-byte header, each in an OUT that just holds it. -/
theorem witness_PackAhOutputsTheHeader :
    let s (c : Cfg) (n : Nat) : State := { State.reset with cfg := { c with outCap := n }, ah := ahResp }
    (wireAh (s cfgR 4).cfg (s cfgR 4).ah).length ≤ (s cfgR 4).cfg.outCap ∧
      (wireAh (s Cfg.default 2).cfg (s Cfg.default 2).ah).length ≤ (s Cfg.default 2).cfg.outCap := by decide

theorem witness_UnpackDlReadsTheHeader :
    (inp Cfg.default ([0xAA] ++ wireDl dlOne ++ [0xBB]) 1).inputIs ([0xAA] ++ wireDl dlOne ++ [0xBB]) ∧
      (inp Cfg.default ([0xAA] ++ wireDl dlOne ++ [0xBB]) 1).inOff.toNat = [(0xAA : Byte)].length :=
  ⟨inp_default _ _ (by decide), rfl⟩

theorem witness_UnpackThReadsTheHeader :
    (inp Cfg.default ([0xAA] ++ 0xC0 :: []) 1).inputIs ([0xAA] ++ 0xC0 :: []) ∧
      (inp Cfg.default ([0xAA] ++ 0xC0 :: []) 1).inOff.toNat = [(0xAA : Byte)].length :=
  ⟨inp_default _ _ (by decide), rfl⟩

/-- With an IIN field and without. -/
theorem witness_UnpackAhReadsTheHeader :
    ((inp cfgR ([] ++ wireAh cfgR ahResp ++ [])).inputIs ([] ++ wireAh cfgR ahResp ++ []) ∧
      (inp cfgR ([] ++ wireAh cfgR ahResp ++ [])).inOff.toNat = ([] : List Byte).length ∧
      carriesIin cfgR ahResp.fc) ∧
    ((inp Cfg.default ([] ++ wireAh Cfg.default ahResp ++ [])).inputIs ([] ++ wireAh Cfg.default ahResp ++ []) ∧
      (inp Cfg.default ([] ++ wireAh Cfg.default ahResp ++ [])).inOff.toNat = ([] : List Byte).length ∧
      ¬ carriesIin Cfg.default ahResp.fc) :=
  ⟨⟨inp_resp _ _ (by decide), rfl, by decide⟩, inp_default _ _ (by decide), rfl, by decide⟩

/-- A state whose OH0, OH_A and OH_B are qualifier q and values x and y, and whose OUT_CAP is 11. -/
def ohS (q : Byte) (x y : Word) : State :=
  { State.reset with
    cfg := { Cfg.default with outCap := 11 }, oh := { group := 30, var := 1, qual := q, a := x, b := y } }

/-- Each kind, at the largest values that fit and with the ignored values not 0. -/
theorem witness_PackOhOutputsTheHeader :
    (3 + 2 ≤ (ohS 0x00 0xFF 0xFF).cfg.outCap ∧ 3 + 8 ≤ (ohS 0x20 0xFFFFFFFF 0).cfg.outCap ∧
      3 + 1 ≤ (ohS 0x30 0xFF 0x100).cfg.outCap ∧ 3 + 0 ≤ (ohS 0x60 0xFFFFFFFF 0xFFFFFFFF).cfg.outCap) ∧
    (rangeLen (ohS 0x00 0xFF 0xFF).cfg (ohS 0x00 0xFF 0xFF).oh.qual = some (.startStop, 2) ∧
      (ohS 0x00 0xFF 0xFF).oh.a.toNat < 2 ^ (8 * (2 / 2)) ∧ (ohS 0x00 0xFF 0xFF).oh.b.toNat < 2 ^ (8 * (2 / 2))) ∧
    (rangeLen (ohS 0x20 0xFFFFFFFF 0).cfg (ohS 0x20 0xFFFFFFFF 0).oh.qual = some (.startStop, 8) ∧
      (ohS 0x20 0xFFFFFFFF 0).oh.a.toNat < 2 ^ (8 * (8 / 2)) ∧ (ohS 0x20 0xFFFFFFFF 0).oh.b.toNat < 2 ^ (8 * (8 / 2))) ∧
    (rangeLen (ohS 0x30 0xFF 0x100).cfg (ohS 0x30 0xFF 0x100).oh.qual = some (.count, 1) ∧
      (ohS 0x30 0xFF 0x100).oh.a.toNat < 2 ^ (8 * 1)) ∧
    rangeLen (ohS 0x60 0xFFFFFFFF 0xFFFFFFFF).cfg (ohS 0x60 0xFFFFFFFF 0xFFFFFFFF).oh.qual = some (.none, 0) := by
  decide +kernel

theorem canonical_objS : canonicalObj Cfg.default objS := ⟨by decide, by show _ ∧ _; decide⟩
theorem canonical_objC : canonicalObj Cfg.default objC := ⟨by decide, by show _ ∧ _; decide⟩
theorem canonical_objN : canonicalObj Cfg.default objN := ⟨by decide, by show _ ∧ _; decide⟩

theorem canonical_only_objC : ∀ o ∈ [objC], canonicalObj Cfg.default o := by
  intro o ho
  rw [List.mem_singleton.1 ho]
  exact canonical_objC

theorem witness_UnpackOhReadsTheHeader :
    canonicalObj Cfg.default objS ∧ canonicalObj Cfg.default objC ∧ canonicalObj Cfg.default objN ∧
    (inp Cfg.default ([0xAA] ++ wireObj objC ++ [0xBB]) 1).inputIs ([0xAA] ++ wireObj objC ++ [0xBB]) ∧
    (inp Cfg.default ([0xAA] ++ wireObj objC ++ [0xBB]) 1).inOff.toNat = [(0xAA : Byte)].length :=
  ⟨canonical_objS, canonical_objC, canonical_objN, inp_default _ _ (by decide), rfl⟩

theorem witness_RangeLenWritesKindAndLength : rangeLen Cfg.default State.reset.oh.qual = some (.startStop, 2) := by decide

/-- 49 ranges and none, each in an OUT that just holds the frame. -/
theorem witness_BuildReadOutputsTheFramedRequest :
    let rs : List ReadRange := List.replicate 49 { group := 1, var := 1, start := 0, stop := 0 }
    let c : Cfg := { Cfg.default with outCap := 290 }
    let c0 : Cfg := { Cfg.default with outCap := 13 }
    (rs.length ≤ 49 ∧ (inp c (wireRanges rs)).inputIs (wireRanges rs) ∧
      (frameEncode c (wireRead c 0 0 0 0 rs)).length ≤ c.outCap) ∧
    ((inp c0 (wireRanges [])).inputIs (wireRanges []) ∧ (frameEncode c0 (wireRead c0 0 0 0 0 [])).length ≤ c0.outCap) :=
  ⟨⟨by decide, inp_inputIs _ _ _ (by decide +kernel) (by decide), by decide +kernel⟩,
    inp_inputIs _ _ _ (by decide) (by decide), by decide +kernel⟩

theorem witness_ParseFrameReadsEveryFrame :
    let f := frameEncode cfgR (wireDl dlOne ++ wireTh thOne ++ wireAh cfgR ahResp ++ [objS, objC, objN].flatMap wireObj)
    (inp cfgR f).cfg.legal = true ∧ (∀ o ∈ [objS, objC, objN], canonicalObj cfgR o) ∧
      (¬ carriesIin cfgR ahResp.fc → ahResp.iin = 0) ∧ (inp cfgR f).inputIs f := by
  refine ⟨by decide, ?_, by decide, inp_resp _ _ (by decide +kernel)⟩
  intro o ho
  simp only [List.mem_cons, List.not_mem_nil, or_false] at ho
  rcases ho with rfl | rfl | rfl
  · exact ⟨by decide, by show _ ∧ _; decide⟩
  · exact ⟨by decide, by show _ ∧ _; decide⟩
  · exact ⟨by decide, by show _ ∧ _; decide⟩

/-- Every bucket of the document's table. -/
theorem witness_DocQualifierBuckets :
    Cfg.default.qualMap = .doc ∧
    ([(0x00 : Byte), 0x10, 0x20, 0x30, 0x40, 0x50, 0x60, 0x70].all fun m => (m ||| 0x8F) &&& 0x70 == m) = true ∧
    (inp Cfg.default ([0x01, 0x01, 0x60] ++ []).dropLast).inputIs ([0x01, 0x01, 0x60] ++ []).dropLast ∧
    (inp Cfg.default ([0x01, 0x01, 0x30] ++ [0x05]).dropLast).inputIs ([0x01, 0x01, 0x30] ++ [0x05]).dropLast ∧
    (inp Cfg.default []).inOff = 0 :=
  ⟨rfl, by decide, inp_default _ _ (by decide), inp_default _ _ (by decide), rfl⟩

/-- Every code of the IEEE 1815 table, with q[7:4] set. -/
theorem witness_StdQualifierTable :
    cfgStd.qualMap = .std ∧ ([(0x00 : Byte), 0x01, 0x02, 0x03, 0x04, 0x05, 0x06, 0x07, 0x08, 0x09, 0x0A, 0x0B, 0x0C, 0x0D,
      0x0E, 0x0F].all fun r => (r ||| 0xF0) &&& 0x0F == r) = true :=
  ⟨rfl, by decide⟩

theorem witness_InputLongerThanBufferRaises :
    readsIn .crc16 = true ∧ ({ State.reset with inLen := 2049 } : State).cfg.inCap <
      ({ State.reset with inLen := 2049 } : State).inLen.toNat := by
  decide

/-- Byte 0 written, byte 1 not; IN_LEN at IN_CAP. -/
theorem witness_UnwrittenInputFaultsTheModel :
    let s : State := { State.reset with cfg := { Cfg.default with inCap := 2 }, inLen := 2, inBuf := [(0, 0xAA)] }
    readsIn .parseFrame = true ∧ s.inLen.toNat ≤ s.cfg.inCap ∧ 1 < s.inLen.toNat ∧ s.inBuf.read 1 = none ∧
      ∀ k, k < 1 → (s.inBuf.read k).isSome := by
  decide

/-- IN_OFF = IN_LEN + 1. -/
theorem witness_OffsetBeyondInputRaises :
    readsInOff .unpackOh = true ∧ (inp Cfg.default [0xAA] 2).inputIs [0xAA] ∧
      [(0xAA : Byte)].length < (inp Cfg.default [0xAA] 2).inOff.toNat :=
  ⟨rfl, inp_default _ _ (by decide), by decide⟩

/-- Each clause at the longest string it speaks of: 7, 0, 1, 3, 2 and 4 bytes left; and IN_OFF = IN_LEN. -/
theorem witness_CutHeaderRaisesTruncatedHeader :
    ((inp Cfg.default [0x05, 0x64, 0, 0, 0, 0, 0]).inputIs [0x05, 0x64, 0, 0, 0, 0, 0] ∧ 7 - 0 < 8) ∧
    ((inp Cfg.default [0xAA] 1).inputIs [0xAA] ∧ (inp Cfg.default [0xAA] 1).inOff.toNat ≤ [(0xAA : Byte)].length ∧
      1 - 1 < 1) ∧
    ((inp Cfg.default [0xC0]).inputIs [0xC0] ∧ 1 - 0 < 2) ∧
    ((inp cfgR [0xC0, 0x81, 0x80]).inputIs [0xC0, 0x81, 0x80] ∧ 2 ≤ 3 - 0 ∧ 3 - 0 < 4 ∧
      carriesIin cfgR ([(0xC0 : Byte), 0x81, 0x80].getD (0 + 1) 0)) ∧
    ((inp Cfg.default [0x01, 0x01]).inputIs [0x01, 0x01] ∧ 2 - 0 < 3) ∧
    ((inp Cfg.default [0x01, 0x01, 0x00, 0x00]).inputIs [0x01, 0x01, 0x00, 0x00] ∧ 3 ≤ 4 - 0 ∧
      rangeLen Cfg.default ([(0x01 : Byte), 0x01, 0x00, 0x00].getD (0 + 2) 0) = some (.startStop, 2) ∧ 4 - 0 < 3 + 2) :=
  ⟨⟨inp_default _ _ (by decide), by decide⟩, ⟨inp_default _ _ (by decide), by decide, by decide⟩,
    ⟨inp_default _ _ (by decide), by decide⟩, ⟨inp_resp _ _ (by decide), by decide, by decide, by decide⟩,
    ⟨inp_default _ _ (by decide), by decide⟩, ⟨inp_default _ _ (by decide), by decide, by decide, by decide⟩⟩

/-- The same statement's PARSE_FRAME clauses: tails of 1, 2 and 4 bytes after an object header, and 12 bytes of a response
header. -/
theorem witness_CutHeaderRaisesTruncatedHeader_parseFrame :
    let front := wireHeaders Cfg.default dlOne thOne ahResp [objC]
    let f1 := frameEncode Cfg.default (front ++ [0x01])
    let f2 := frameEncode Cfg.default (front ++ [0x01, 0x01])
    let f4 := frameEncode Cfg.default (front ++ [0x01, 0x01, 0x00, 0x00])
    let r := frameEncode cfgR (wireDl dlOne ++ wireTh thOne ++ [wireControl ahResp, ahResp.fc] ++ [0x80])
    (∀ o ∈ [objC], canonicalObj Cfg.default o) ∧ (inp Cfg.default f1).inputIs f1 ∧ (inp Cfg.default f2).inputIs f2 ∧
      ((inp Cfg.default f4).inputIs f4 ∧
        rangeLen Cfg.default ([(0x01 : Byte), 0x01, 0x00, 0x00].getD 2 0) = some (.startStop, 2) ∧ 4 < 3 + 2) ∧
      ((inp cfgR r).inputIs r ∧ carriesIin cfgR ahResp.fc ∧ [(0x80 : Byte)].length < 2) :=
  ⟨canonical_only_objC, inp_default _ _ (by decide +kernel), inp_default _ _ (by decide +kernel),
    ⟨inp_default _ _ (by decide +kernel), by decide, by decide⟩, inp_resp _ _ (by decide +kernel), by decide, by decide⟩

/-- Exactly 8 bytes and exactly 11 unframed bytes, the second start byte wrong. -/
theorem witness_WrongStartBytesRaise :
    let q6 : List Byte := [0, 0, 0, 0, 0, 0]
    let q9 : List Byte := [0, 0, 0, 0, 0, 0, 0, 0, 0]
    let f := frameEncode Cfg.default (0x05 :: 0x65 :: q9)
    ¬ ((0x05 : Byte) = 0x05 ∧ (0x65 : Byte) = 0x64) ∧
    ((inp Cfg.default ([] ++ 0x05 :: 0x65 :: q6)).inputIs ([] ++ 0x05 :: 0x65 :: q6) ∧
      (inp Cfg.default ([] ++ 0x05 :: 0x65 :: q6)).inOff.toNat = ([] : List Byte).length ∧ 6 ≤ q6.length) ∧
    (9 ≤ q9.length ∧ (inp Cfg.default f).inputIs f) :=
  ⟨by decide, ⟨inp_default _ _ (by decide), rfl, by decide⟩, by decide, inp_default _ _ (by decide +kernel)⟩

theorem witness_UnknownQualifierRaises :
    let f := frameEncode Cfg.default (wireHeaders Cfg.default dlOne thOne ahResp [objC] ++ 0x3C :: 0x01 :: 0x70 :: [])
    (∃ s : State, rangeLen s.cfg s.oh.qual = none) ∧ rangeLen Cfg.default 0x70 = none ∧
    ((inp Cfg.default ([] ++ 0x3C :: 0x01 :: 0x70 :: [])).inputIs ([] ++ 0x3C :: 0x01 :: 0x70 :: []) ∧
      (inp Cfg.default ([] ++ 0x3C :: 0x01 :: 0x70 :: [])).inOff.toNat = ([] : List Byte).length) ∧
    ((∀ o ∈ [objC], canonicalObj Cfg.default o) ∧ (inp Cfg.default f).inputIs f) :=
  ⟨⟨ohS 0x70 0 0, by decide⟩, by decide, ⟨inp_default _ _ (by decide), rfl⟩, canonical_only_objC,
    inp_default _ _ (by decide +kernel)⟩

/-- The smallest value too wide, in OH_A and in OH_B. -/
theorem witness_WideRangeValueRaises :
    (rangeLen (ohS 0x00 0x100 0).cfg (ohS 0x00 0x100 0).oh.qual = some (.startStop, 2) ∧
      2 ^ (8 * (2 / 2)) ≤ (ohS 0x00 0x100 0).oh.a.toNat) ∧
    (rangeLen (ohS 0x00 0xFF 0x100).cfg (ohS 0x00 0xFF 0x100).oh.qual = some (.startStop, 2) ∧
      (ohS 0x00 0xFF 0x100).oh.a.toNat < 2 ^ (8 * (2 / 2)) ∧ 2 ^ (8 * (2 / 2)) ≤ (ohS 0x00 0xFF 0x100).oh.b.toNat) ∧
    (rangeLen (ohS 0x40 0x10000 0).cfg (ohS 0x40 0x10000 0).oh.qual = some (.count, 2) ∧
      2 ^ (8 * 2) ≤ (ohS 0x40 0x10000 0).oh.a.toNat) := by
  decide +kernel

/-- A zero CRC after one good block: a full block, a short block of 15 bytes and of 1, tails of 1 and 2. -/
theorem witness_StripCrcReportsTheFirstFailure :
    let good : List Byte := List.replicate 16 0x01
    good.length = 16 * 1 ∧
    ((inp Cfg.default (addChecksums Cfg.default good ++ good ++ [0, 0] ++ [])).inputIs
        (addChecksums Cfg.default good ++ good ++ [0, 0] ++ []) ∧ crc16 Cfg.default good ≠ (0 : Byte) ++ (0 : Byte)) ∧
    ((inp Cfg.default (addChecksums Cfg.default good ++ List.replicate 15 0x01 ++ [0, 0])).inputIs
        (addChecksums Cfg.default good ++ List.replicate 15 0x01 ++ [0, 0]) ∧
      crc16 Cfg.default (List.replicate 15 0x01) ≠ (0 : Byte) ++ (0 : Byte)) ∧
    ((inp Cfg.default (addChecksums Cfg.default good ++ [0x01] ++ [0, 0])).inputIs
        (addChecksums Cfg.default good ++ [0x01] ++ [0, 0]) ∧ crc16 Cfg.default [0x01] ≠ (0 : Byte) ++ (0 : Byte)) ∧
    (inp Cfg.default (addChecksums Cfg.default good ++ [0x01])).inputIs (addChecksums Cfg.default good ++ [0x01]) ∧
    (inp Cfg.default (addChecksums Cfg.default good ++ [0x01, 0x01])).inputIs
      (addChecksums Cfg.default good ++ [0x01, 0x01]) :=
  ⟨by decide, ⟨inp_default _ _ (by decide +kernel), by decide +kernel⟩,
    ⟨inp_default _ _ (by decide +kernel), by decide +kernel⟩, ⟨inp_default _ _ (by decide +kernel), by decide +kernel⟩,
    inp_default _ _ (by decide +kernel), inp_default _ _ (by decide +kernel)⟩

/-- 3 bytes; and 200 bytes, which is 50 ranges. -/
theorem witness_BuildReadRejectsBadLists :
    ((inp Cfg.default [1, 1, 0]).inputIs [1, 1, 0] ∧ [(1 : Byte), 1, 0].length % 4 ≠ 0) ∧
    ((inp Cfg.default (List.replicate 200 0)).inputIs (List.replicate 200 0) ∧
      (List.replicate 200 (0 : Byte)).length = 4 * 50 ∧ 50 ≤ 50) :=
  ⟨⟨inp_default _ _ (by decide), by decide⟩, inp_default _ _ (by decide +kernel), by decide +kernel, by decide⟩

/-- Unframed 0 and 10 bytes under FLAT, 8 and 10 under SEPARATE; framed 9 bytes under SEPARATE. -/
theorem witness_ShortFrameRaises :
    ((inp Cfg.default (frameEncode Cfg.default [])).inputIs (frameEncode Cfg.default []) ∧
      (Cfg.default.hdrBlock = .separate → 8 ≤ ([] : List Byte).length)) ∧
    ((inp Cfg.default (frameEncode Cfg.default (List.replicate 10 0))).inputIs
      (frameEncode Cfg.default (List.replicate 10 0)) ∧ (List.replicate 10 (0 : Byte)).length < 11) ∧
    ((inp cfgS0 (frameEncode cfgS0 (List.replicate 8 0))).inputIs (frameEncode cfgS0 (List.replicate 8 0)) ∧
      8 ≤ (List.replicate 8 (0 : Byte)).length) ∧
    (cfgS0.hdrBlock = .separate ∧ (List.replicate 9 (0 : Byte)).length < 10 ∧
      (inp cfgS0 (List.replicate 9 0)).inputIs (List.replicate 9 0)) :=
  ⟨⟨inp_default _ _ (by decide), by decide⟩, ⟨inp_default _ _ (by decide +kernel), by decide⟩,
    ⟨inp_sep _ _ (by decide +kernel), by decide⟩, rfl, by decide, inp_sep _ _ (by decide)⟩

/-- Each command, OUT_CAP one byte short. -/
theorem witness_OutputLongerThanBufferRaises :
    let c (n : Nat) : Cfg := { Cfg.default with outCap := n }
    let rs : List ReadRange := [{ group := 30, var := 1, start := 0, stop := 9 }]
    let f := frameEncode (c 11) (wireHeaders (c 11) dlOne thOne ahResp [objC])
    ((c 7).outCap < 8 ∧ (c 0).outCap < 1 ∧ (c 1).outCap < (wireAh (c 1) ahResp).length ∧
      { cfgR with outCap := 3 }.outCap < (wireAh { cfgR with outCap := 3 } ahResp).length) ∧
    (rangeLen (c 6) objC.hdr.qual = some (.count, 4) ∧ objC.hdr.a.toNat < 2 ^ (8 * 4) ∧ (c 6).outCap < 3 + 4) ∧
    ((inp (c 2) [0x01]).inputIs [0x01] ∧ (c 2).outCap < (addChecksums (c 2) [0x01]).length) ∧
    ((inp (c 0) (addChecksums (c 0) [0x01])).inputIs (addChecksums (c 0) [0x01]) ∧ (c 0).outCap < [(0x01 : Byte)].length) ∧
    (rs.length ≤ 49 ∧ (inp (c 17) (wireRanges rs)).inputIs (wireRanges rs) ∧
      (c 17).outCap < (frameEncode (c 17) (wireRead (c 17) 0 0 0 0 rs)).length) ∧
    ((∀ o ∈ [objC], canonicalObj (c 11) o) ∧ (inp (c 11) f).inputIs f ∧ (c 11).outCap < 12 * [objC].length) :=
  ⟨by decide, by decide +kernel, ⟨inp_inputIs _ _ _ (by decide) (by decide), by decide +kernel⟩,
    ⟨inp_inputIs _ _ _ (by decide +kernel) (by decide), by decide⟩,
    ⟨by decide, inp_inputIs _ _ _ (by decide) (by decide), by decide +kernel⟩,
    canonical_only_objC, inp_inputIs _ _ _ (by decide +kernel) (by decide), by decide⟩

theorem witness_CommandsWriteOnlyTheirResults : ∃ t, exec .packTh State.reset = .next t := ⟨_, rfl⟩

/-- A command that stores, with success; one that stores nothing; one that stores and raises. -/
theorem witness_CommandsStoreOnlyTheOutput :
    (Cfg.default.legal = true ∧ ∃ t, exec .packTh State.reset = .next t ∧ writesOut .packTh = true ∧ t.err = 0) ∧
    (∃ t, exec .crc16 (inp Cfg.default [0x01]) = .next t ∧ writesOut .crc16 = false ∧ t.err = 0) ∧
    ∃ t, exec .packOh (ohS 0x70 0 0) = .next t ∧ writesOut .packOh = true ∧ t.err ≠ 0 :=
  ⟨⟨by decide, _, rfl, rfl, rfl⟩, ⟨_, rfl, rfl, rfl⟩, _, rfl, rfl, by decide⟩

/-- An error and a success. -/
theorem witness_ErrorsArePrecise :
    (∃ t, exec .unpackTh State.reset = .next t ∧ t.err ≠ 0) ∧ ∃ t, exec .packTh State.reset = .next t ∧ t.err = 0 :=
  ⟨⟨_, rfl, by decide⟩, _, rfl, rfl⟩

theorem witness_EveryCommandCompletes :
    readsIn .crc16 = true ∧ (inp Cfg.default [0x01]).inputWritten ∧ readsIn .packDl = false :=
  ⟨rfl, fun j hj => by
    have h := inp_default [0x01] 0 (by decide)
    rw [h.2.2 j (by rw [← h.1]; exact hj), List.getElem?_eq_getElem (by rw [← h.1]; exact hj)]
    rfl, rfl⟩

/-- Two states that differ in a byte of IN past IN_LEN and in a register that is no operand. -/
theorem witness_ResultsDependOnOperandsOnly :
    let s : State := inp Cfg.default [0x01]
    let s' : State := { s with inBuf := [(0, 0x01), (1, 0x02)], consumed := 5 }
    sameOperands .crc16 s s' ∧ (∃ t, exec .crc16 s = .next t ∧ t.err = 0) ∧
      (sameOperands .unpackDl s s' ∧ ∃ t, exec .unpackDl s = .next t ∧ t.err ≠ 0) := by
  refine ⟨⟨rfl, rfl, by decide⟩, ⟨_, rfl, rfl⟩, ⟨rfl, ⟨rfl, by decide⟩, rfl⟩, _, rfl, by decide⟩

theorem witness_NoOutputOverflow :
    Cfg.default.legal = true ∧ 292 ≤ Cfg.default.outCap ∧ ∃ t, exec .packTh State.reset = .next t :=
  ⟨by decide, by decide, _, rfl⟩

theorem witness_NoStepChangesTheConfiguration : ∃ t, step (State.reset.withFetchWord 32 0x12) = .next t := ⟨_, rfl⟩

theorem pending_inv : (State.reset.issueCommand 0x12).Inv :=
  ⟨by decide, rfl, fun _ _ => rfl, fun _ => rfl, fun _ => ⟨rfl, rfl⟩, by decide, by decide, by decide, by decide,
    by decide, by decide, fun j hj => absurd hj (Nat.not_lt_zero j)⟩

theorem completed_inv : (atCompletion.issueCommand 0x12).succeed.Inv :=
  ⟨by decide, rfl, fun h _ => absurd h (by decide), fun h => absurd h (by decide), fun h => absurd h (by decide),
    by decide, by decide, by decide, by decide, by decide, by decide, fun j hj => absurd hj (Nat.not_lt_zero j)⟩

/-- A busy state: PACK_TH pending. -/
theorem witness_EveryStepKeepsInv :
    (State.reset.issueCommand 0x12).Inv ∧ ∃ t, step (State.reset.issueCommand 0x12) = .next t :=
  ⟨pending_inv, _, rfl⟩

/-- A framed string that is accepted; a flip in its data and in its CRC; a string of two bytes. -/
theorem witness_SingleBitFlipIsDetected :
    Cfg.default.poly ≠ 0 ∧ 0 < (addChecksums Cfg.default [0x01]).length ∧ 2 < (addChecksums Cfg.default [0x01]).length ∧
      stripAndVerify Cfg.default (addChecksums Cfg.default [0x01]) 0 = .ok [0x01] ∧
      1 < [(0x00 : Byte), 0x00].length ∧ [(0x00 : Byte), 0x00].length = 2 := by
  decide +kernel

theorem witness_CrcArithmeticLaws :
    Cfg.default.xorout = 0 ∧ [(0x01 : Byte)].length = [(0x80 : Byte)].length ∧ 1 ≤ 16 ∧ 16 ≤ 16 ∧ 1 ≤ 1 := by
  decide

/-- 8 bytes, under each blocking. -/
theorem witness_FramedLengths :
    Cfg.default.hdrBlock = .flat ∧ cfgS0.hdrBlock = .separate ∧ 8 ≤ (List.replicate 8 (0 : Byte)).length := by
  decide

/-- Each PACK command's output, fed back. -/
theorem witness_UnpackRestoresWhatPackWrote :
    (∃ t, exec .packDl State.reset = .next t ∧ t.err = 0 ∧ (fed t).fedFrom t ∧ (fed t).inOff = 0) ∧
    (∃ t, exec .packTh State.reset = .next t ∧ t.err = 0 ∧ (fed t).fedFrom t) ∧
    (∃ t, exec .packAh { State.reset with cfg := cfgR, ah := ahResp } = .next t ∧ t.err = 0 ∧ (fed t).fedFrom t ∧
      carriesIin cfgR ahResp.fc) ∧
    (∃ t, exec .packAh { State.reset with ah := ahResp } = .next t ∧ t.err = 0 ∧ (fed t).fedFrom t ∧
      ¬ carriesIin Cfg.default ahResp.fc) ∧
    (∃ t, exec .packOh { State.reset with oh := objC.hdr } = .next t ∧ t.err = 0 ∧ (fed t).fedFrom t ∧
      rangeLen Cfg.default objC.hdr.qual = some (.count, 4) ∧ objC.hdr.b = 0) ∧
    (∃ t, exec .packOh { State.reset with oh := objN.hdr } = .next t ∧ t.err = 0 ∧ (fed t).fedFrom t ∧
      rangeLen Cfg.default objN.hdr.qual = some (.none, 0) ∧ objN.hdr.a = 0 ∧ objN.hdr.b = 0) :=
  ⟨⟨_, rfl, rfl, ⟨rfl, rfl, by decide, fun _ _ => rfl⟩, rfl⟩, ⟨_, rfl, rfl, rfl, rfl, by decide, fun _ _ => rfl⟩,
    ⟨_, rfl, rfl, ⟨rfl, rfl, by decide, fun _ _ => rfl⟩, by decide⟩,
    ⟨_, rfl, rfl, ⟨rfl, rfl, by decide, fun _ _ => rfl⟩, by decide⟩,
    ⟨_, rfl, rfl, ⟨rfl, rfl, by decide, fun _ _ => rfl⟩, by decide, rfl⟩,
    ⟨_, rfl, rfl, ⟨rfl, rfl, by decide, fun _ _ => rfl⟩, by decide, rfl, rfl⟩⟩

theorem witness_ParseFrameReadsWhatBuildReadWrote :
    let rs : List ReadRange := [{ group := 30, var := 1, start := 0, stop := 9 }]
    let t := after (exec .buildRead (inp Cfg.default (wireRanges rs)))
    Cfg.default.legal = true ∧ (inp Cfg.default (wireRanges rs)).inputIs (wireRanges rs) ∧
      exec .buildRead (inp Cfg.default (wireRanges rs)) = .next t ∧ t.err = 0 ∧ (fed t).fedFrom t :=
  ⟨by decide, inp_default _ _ (by decide), (of_errOf (e := 0) (i0 := 0) (i1 := 0) (by decide +kernel)).1,
    (of_errOf (e := 0) (i0 := 0) (i1 := 0) (by decide +kernel)).2, rfl, rfl, by decide +kernel, fun _ _ => rfl⟩

/-- With and without an IIN field to read. -/
theorem witness_BareHeadersParseToNoObjects :
    let f := frameEncode Cfg.default (wireDl dlOne ++ wireTh thOne ++ [wireControl ahResp, ahResp.fc])
    let g := frameEncode cfgR (wireDl dlOne ++ wireTh thOne ++ [wireControl ahResp, ahResp.fc])
    ((inp Cfg.default f).inputIs f ∧ ¬ carriesIin Cfg.default ahResp.fc) ∧
      ((inp cfgR g).inputIs g ∧ carriesIin cfgR ahResp.fc) :=
  ⟨⟨inp_default _ _ (by decide +kernel), by decide⟩, inp_resp _ _ (by decide +kernel), by decide⟩

theorem witness_ParseFrameDetectsEveryBitFlip :
    Cfg.default.legal = true ∧ (inp Cfg.default frameG).inputIs frameG ∧
      (∃ t, exec .parseFrame (inp Cfg.default frameG) = .next t ∧ t.err = 0) ∧ 17 < frameG.length ∧
      (inp Cfg.default (flipBit frameG 17 7)).inputIs (flipBit frameG 17 7) :=
  ⟨by decide, inp_default _ _ (by decide), ⟨_, of_errOf (i0 := 0) (i1 := 0) (by decide +kernel)⟩,
    by decide, inp_default _ _ (by decide)⟩

/-- Under FLAT, an error; under SEPARATE a wrong header block, and after a good one and one good full block a wrong full
block, a wrong short one, and tails of 1 and 2 bytes. -/
theorem witness_ParseFrameChecksCrcsFirst :
    let hdr : List Byte := List.replicate 8 0x01
    let good : List Byte := List.replicate 16 0x01
    let short : List Byte := List.replicate 15 0x01
    let front := addChecksums cfgS0 hdr ++ addChecksums cfgS0 good
    (Cfg.default.hdrBlock = .flat ∧ (inp Cfg.default [0x01]).inputIs [0x01] ∧
      stripAndVerify Cfg.default [0x01] 0 = .error (.truncatedBlock 0 1)) ∧
    (cfgS0.hdrBlock = .separate ∧ hdr.length = 8 ∧ good.length = 16 * 1) ∧
    ((inp cfgS0 (hdr ++ [0, 0] ++ [])).inputIs (hdr ++ [0, 0] ++ []) ∧ crc16 cfgS0 hdr ≠ (0 : Byte) ++ (0 : Byte)) ∧
    ((inp cfgS0 (front ++ good ++ [0, 0] ++ [])).inputIs (front ++ good ++ [0, 0] ++ []) ∧
      crc16 cfgS0 good ≠ (0 : Byte) ++ (0 : Byte)) ∧
    ((inp cfgS0 (front ++ short ++ [0, 0])).inputIs (front ++ short ++ [0, 0]) ∧
      crc16 cfgS0 short ≠ (0 : Byte) ++ (0 : Byte)) ∧
    (inp cfgS0 (front ++ [0x01])).inputIs (front ++ [0x01]) ∧
    (inp cfgS0 (front ++ [0x01, 0x01])).inputIs (front ++ [0x01, 0x01]) :=
  ⟨⟨rfl, inp_default _ _ (by decide), rfl⟩, by decide, ⟨inp_sep _ _ (by decide), by decide +kernel⟩,
    ⟨inp_sep _ _ (by decide +kernel), by decide +kernel⟩, ⟨inp_sep _ _ (by decide +kernel), by decide +kernel⟩,
    inp_sep _ _ (by decide +kernel), inp_sep _ _ (by decide +kernel)⟩

/-- The first byte of IN, the last aligned word, four written bytes and an unwritten one. -/
theorem witness_HostReachesInput :
    let s : State := inp Cfg.default [0xAA, 0xBB, 0xCC, 0xDD]
    s.awaiting = false ∧ s.cfg.inCap ≤ 8192 ∧ 0 < s.cfg.inCap ∧ 2047 < s.cfg.inCap ∧
      (2044 % 4 = 0 ∧ 2044 + 3 < s.cfg.inCap) ∧
      (s.inBuf.read 0 = some 0xAA ∧ s.inBuf.read (0 + 1) = some 0xBB ∧ s.inBuf.read (0 + 2) = some 0xCC ∧
        s.inBuf.read (0 + 3) = some 0xDD) ∧
      s.inBuf.read (2044 + 3) = none := by
  decide

/-- The last aligned word of OUT, and an unwritten byte. -/
theorem witness_OutputReadsLittleEndian :
    let s : State := { State.reset with outBuf := [(8188, 0xD4), (8189, 0xC3), (8190, 0xB2), (8191, 0xA1)] }
    s.awaiting = false ∧ s.cfg.outCap ≤ 16384 ∧ 8191 < s.cfg.outCap ∧ 8188 % 4 = 0 ∧ 8188 + 3 < s.cfg.outCap ∧
      s.outBuf.read 8188 = some 0xD4 ∧ s.outBuf.read (8188 + 1) = some 0xC3 ∧ s.outBuf.read (8188 + 2) = some 0xB2 ∧
      s.outBuf.read (8188 + 3) = some 0xA1 ∧ s.outBuf.read (0 + 3) = none := by
  decide

/-- The invariant, with a command pending, and with one completed where the interval ends then; busy; completed but not
polled; and an allowed read of a register and of both buffers. -/
theorem witness_BusyHostAccesses :
    ((State.reset.issueCommand 0x12).Inv ∧ (State.reset.issueCommand 0x12).pend ≠ none ∧
      (atCompletion.issueCommand 0x12).succeed.Inv ∧ atCompletion.cfg.busyEnd = .atCompletion) ∧
      (State.reset.issueCommand 0x01).busy = true ∧
      ((State.reset.issueCommand 0x01).succeed.busy = false ∧ (State.reset.issueCommand 0x01).succeed.polling = true) ∧
      access Cfg.default 0x20 .w32 = .ok (.reg .crc) ∧
      Place.reg .crc ≠ .reg .status ∧ access Cfg.default 0x2000 .w8 = .ok (.inBuf 0) ∧
      access Cfg.default 0x5FFC .w32 = .ok (.outBuf 8188) :=
  ⟨⟨pending_inv, by decide, completed_inv, rfl⟩, by decide⟩

/-- Each clause at the ends of its range, in the default configuration. -/
theorem witness_DisallowedAccessesFault :
    Cfg.default.inCap ≤ 8192 ∧ Cfg.default.outCap ≤ 16384 ∧
    (∀ off ∈ [0x2C, 0x2F, 0x4C, 0x1FFF, 0x2000 + 2048, 0x3FFF, 0x4000 + 8192, 0x7FFF], (0x2C ≤ off ∧ off < 0x30) ∨
      (0x4C ≤ off ∧ off < 0x2000) ∨ (0x2000 + Cfg.default.inCap ≤ off ∧ off < 0x4000) ∨
      (0x4000 + Cfg.default.outCap ≤ off ∧ off < 0x8000)) ∧
    (Width.w8 ≠ .w32 ∧ 0xFF < 0x100 ∧ 0x05 % 4 ≠ 0) ∧
    (2045 < Cfg.default.inCap ∧ 2045 % 4 ≠ 0 ∧ Cfg.default.inCap ≤ 2045 + 3) ∧
    (0 < Cfg.default.outCap ∧ 8191 < Cfg.default.outCap ∧ 8191 % 4 ≠ 0) ∧
    (({ Cfg.default with inCap := 5 } : Cfg).inCap ≤ 4 + 3 ∧ 4 % 4 = 0) := by
  decide

theorem witness_RegistersReadBackWithoutReservedBits : State.reset.awaiting = false := by decide

/-- Nothing pending, in each reading of the busy interval; and completed but not polled, where R24 and R32 are followed. -/
theorem witness_CommandWriteIssues :
    (inp Cfg.default [0xAA]).awaiting = false ∧ Cfg.default.busyEnd = .atPoll ∧
      ((atCompletion.issueCommand 0x12).succeed.Inv ∧ (atCompletion.issueCommand 0x12).succeed.cfg.busyEnd = .atCompletion ∧
        (atCompletion.issueCommand 0x12).succeed.pend = none) :=
  ⟨by decide, rfl, completed_inv, rfl, rfl⟩

/-- Reset while a command is in flight. -/
theorem witness_ResetEventClearsTheEngine :
    ({ State.reset.issueCommand 0x21 with env := [.reset, .host] } : State).env = .reset :: [.host] := rfl

/-- `exec PACK_TH`, at the start of a program. -/
theorem witness_ExecPseudoInstructionRunsTheCommand :
    let s : State := { State.reset with host := { HostAgent.idle with prog := pseudoExec 0 .packTh } }
    s.env = [] ∧ s.awaiting = false ∧ s.pend = none ∧ s.host.halted = false ∧
    (∀ j, j < 4 → s.host.prog[s.host.pc + j]? = (pseudoExec s.host.pc .packTh)[j]?) ∧
    ∃ t, exec .packTh { s with
      pend := some (encode .packTh), busy := true, done := false, err := 0, polling := true,
      host := { s.host with pc := s.host.pc + 1 } } = .next t :=
  ⟨rfl, rfl, rfl, rfl, by decide, _, rfl⟩

/-- The host's turn by default and by schedule, running, halted and past the end; bus accesses of both kinds, allowed and
not; a store and a load of both widths, allowed and not; a branch's condition true and false. -/
theorem witness_HostStatementsRun :
    let s : State := { State.reset with host := { HostAgent.idle with prog := [.halt] } }
    let u : State := { s with env := [.host] }
    let r : State := { State.reset with env := [.bus 0x04 .w32 .read] }
    let w : State := { State.reset with env := [.bus 0x2000 .w8 (.write 0xAA)] }
    let i : State := inp Cfg.default [0xAA]
    (s.env = [] ∧ s.pend = none ∧ s.host.halted = false ∧ s.host.prog[s.host.pc]? = some .halt ∧
      u.env = .host :: [] ∧ ({ HostAgent.idle with halted := true } : HostAgent).halted = true ∧
      HostAgent.idle.prog.length ≤ HostAgent.idle.pc) ∧
    (0x04 < 0x8000 ∧ r.env = .bus (r.cfg.windowBase + 0x04) .w32 .read :: [] ∧
      (∃ v t, State.hostRead { r with env := [] } 0x04 .w32 = .ok (v, t)) ∧
      ∃ f, State.hostRead { r with env := [] } 0x7FFF .w32 = .error f) ∧
    (0x2000 < 0x8000 ∧ w.env = .bus (w.cfg.windowBase + 0x2000) .w8 (.write 0xAA) :: [] ∧
      (∃ t, State.hostWrite { w with env := [] } 0x2000 .w8 0xAA = .ok t) ∧
      ∃ f, State.hostWrite { w with env := [] } 0x7FFF .w8 0xAA = .error f) ∧
    ((∃ t, i.hostWrite (i.host.off (.reg .inLen)) .w32 (i.host.val (.imm 1)) = .ok t) ∧
      (∃ t, i.hostWrite (i.host.off (.inBuf (.imm 1))) .w8 (i.host.val (.reg 0)) = .ok t) ∧
      (∃ f, i.hostWrite (i.host.off (.outBuf (.imm 0))) .w32 (i.host.val (.imm 1)) = .error f) ∧
      ∃ f, i.hostWrite (i.host.off (.num 0x7FFF)) .w8 (i.host.val (.imm 1)) = .error f) ∧
    ((∃ v t, i.hostRead (i.host.off (.reg .inLen)) .w32 = .ok (v, t)) ∧
      (∃ v t, i.hostRead (i.host.off (.inBuf (.imm 0))) .w8 = .ok (v, t)) ∧
      (∃ f, i.hostRead (i.host.off (.outBuf (.imm 0))) .w32 = .error f) ∧
      ∃ f, i.hostRead (i.host.off (.reg .crc)) .w8 = .error f) ∧
    (i.host.regs[(0 : Fin 8)] = i.host.val (.reg 1) ∧ i.host.regs[(0 : Fin 8)] ≠ i.host.val (.imm 1)) :=
  ⟨⟨rfl, rfl, rfl, rfl, rfl, rfl, by decide⟩, ⟨by decide, rfl, ⟨_, _, rfl⟩, _, rfl⟩,
    ⟨by decide, rfl, ⟨_, rfl⟩, _, rfl⟩, ⟨⟨_, rfl⟩, ⟨_, rfl⟩, ⟨_, rfl⟩, _, rfl⟩,
    ⟨⟨_, _, rfl⟩, ⟨_, _, rfl⟩, ⟨_, rfl⟩, _, rfl⟩, by decide⟩

end Sys2Proof.Tests
end

section
/-! PROOFS. How a command stops: a command that reads IN stops as `CheckIn` does, and every other stop is an error about the
operands' content, an offset outside the input, or OUT_OVERFLOW of the string the command stages. From this and from the
lengths of the staged strings: 00_scope.md R13 and R16. -/

namespace Sys2Proof.Machine

variable {s : State}

/-! ### A command that reads IN stops as `CheckIn` does -/

/-- Every command that reads IN calls `CheckIn` before anything else that can stop it (40_crc.md R78). -/
theorem body_of_checkIn_error {i : Instr} {r : Stop} (hi : readsIn i = true) (h : s.checkIn = .error r) :
    body i s = .error r := by
  have hu : s.unpackInput = .error r := by rw [State.unpackInput, h, error_bind]
  have hr : s.readRanges = .error r := by rw [State.readRanges, h, error_bind]
  cases i with
  | crc16 | addCrc | stripCrc | parseFrame => rw [body, h, error_bind]
  | unpackDl | unpackTh | unpackAh | unpackOh => rw [body, hu, error_bind]
  | buildRead => rw [body, hr, error_bind]
  | packDl | packTh | packAh | packOh | rangeLen => cases hi

/-- Settles O22: `CheckIn` faults at the first unwritten byte, and the command stops as it does. -/
theorem unwrittenInputFaultsTheModel : Obligations.UnwrittenInputFaultsTheModel := by
  intro i s j hi hcap hj hnone hsome
  have hcheck : s.checkIn = .error (.fault (.unwrittenInput j)) :=
    State.checkIn_eq_error.2 (.inr ⟨hcap, j, hj, hnone, hsome, rfl⟩)
  exact exec_of_body_fault (body_of_checkIn_error hi hcheck)

/-! ### The errors a sequence of steps can end with -/

/-- A result that is a value, or an error of which `P` holds. -/
inductive FailsOnly {ε α : Type} (P : ε → Prop) : Except ε α → Prop
  | ok (a : α) : FailsOnly P (.ok a)
  | error {e : ε} (h : P e) : FailsOnly P (.error e)

theorem failsOnly_iff {ε α : Type} {P : ε → Prop} {x : Except ε α} : FailsOnly P x ↔ ∀ e, x = .error e → P e := by
  constructor
  · rintro (a | h) e he
    · cases he
    · cases he; exact h
  · intro h
    cases x with
    | ok a => exact .ok a
    | error e => exact .error (h e rfl)

theorem FailsOnly.bind {ε α β : Type} {P : ε → Prop} {x : Except ε α} {f : α → Except ε β} (hx : FailsOnly P x)
    (hf : ∀ a, x = .ok a → FailsOnly P (f a)) : FailsOnly P (x >>= f) := by
  cases hx with
  | ok a => exact hf a rfl
  | error h => exact .error h

theorem FailsOnly.raises {α : Type} {P : CmdError → Prop} {Q : Stop → Prop} {x : Except CmdError α}
    (hx : FailsOnly P x) (hPQ : ∀ e, P e → Q (.raise e)) : FailsOnly Q (raises x) := by
  cases hx with
  | ok a => exact .ok a
  | error h => exact .error (hPQ _ h)

/-! ### The codecs' errors -/

/-- An error about the content of a command's operands: any but those of the buffers' bounds (IN_LEN_RANGE, IN_OFF_RANGE,
OUT_OVERFLOW; 60_exceptions.md R135) and of the dispatch (R136). -/
def CmdError.ofContent : CmdError → Prop
  | .checksumMismatch .. | .truncatedHeader .. | .frameTooShort .. | .badStartBytes .. | .truncatedBlock ..
  | .unsupportedQualifier .. | .programmerError (.operandRange _) | .programmerError (.lenOverflow _)
  | .programmerError (.rangeListShape _) => True
  | .programmerError (.inLenRange _) | .programmerError (.inOffRange _) | .programmerError (.outOverflow _)
  | .illegalCommand _ => False

theorem need_failsOnly (str : List Byte) (o n : Nat) (k : HeaderKind) :
    FailsOnly CmdError.ofContent (need str o n k) := by
  refine failsOnly_iff.2 fun e he => ?_
  obtain ⟨-, rfl⟩ := need_eq_error.1 he
  trivial

theorem rangeLenAt_failsOnly (c : Cfg) (o : Nat) (q : Byte) : FailsOnly CmdError.ofContent (rangeLenAt c o q) := by
  refine failsOnly_iff.2 fun e he => ?_
  obtain ⟨-, rfl⟩ := rangeLenAt_eq_error.1 he
  trivial

theorem fits_failsOnly (v : Word) (w : Nat) (r : Reg) : FailsOnly CmdError.ofContent (fits v w r) := by
  refine failsOnly_iff.2 fun e he => ?_
  obtain ⟨-, rfl⟩ := fits_eq_error.1 he
  trivial

theorem encRange_failsOnly (k : RangeKind) (rl : Nat) (a b : Word) :
    FailsOnly CmdError.ofContent (encRange k rl a b) := by
  cases k with
  | none => exact .ok _
  | startStop => exact (fits_failsOnly ..).bind fun _ _ => (fits_failsOnly ..).bind fun _ _ => .ok _
  | count => exact (fits_failsOnly ..).bind fun _ _ => .ok _

theorem encOh_failsOnly (c : Cfg) (h : OhHeader) : FailsOnly CmdError.ofContent (encOh c h) :=
  (rangeLenAt_failsOnly ..).bind fun _ _ => (encRange_failsOnly ..).bind fun _ _ => .ok _

theorem decDl_failsOnly (str : List Byte) (o : Nat) : FailsOnly CmdError.ofContent (decDl str o) := by
  refine (need_failsOnly ..).bind fun _ _ => ?_
  split_ifs
  · exact .ok _
  · exact .error trivial

theorem decTh_failsOnly (str : List Byte) (o : Nat) : FailsOnly CmdError.ofContent (decTh str o) :=
  (need_failsOnly ..).bind fun _ _ => .ok _

theorem decAh_failsOnly (c : Cfg) (str : List Byte) (o : Nat) : FailsOnly CmdError.ofContent (decAh c str o) := by
  refine (need_failsOnly ..).bind fun _ _ => ?_
  split_ifs
  · exact (need_failsOnly ..).bind fun _ _ => .ok _
  · exact .ok _

theorem decOh_failsOnly (c : Cfg) (str : List Byte) (o : Nat) : FailsOnly CmdError.ofContent (decOh c str o) :=
  (need_failsOnly ..).bind fun _ _ => (rangeLenAt_failsOnly ..).bind fun _ _ =>
    (need_failsOnly ..).bind fun _ _ => .ok _

theorem verifyBlock_failsOnly (c : Cfg) (k : Nat) (blk crc : List Byte) :
    FailsOnly CmdError.ofContent (verifyBlock c k blk crc) := by
  unfold verifyBlock
  split_ifs
  · exact .ok _
  · exact .error trivial

theorem stripBlocks_failsOnly (c : Cfg) (n k : Nat) (f : List Byte) :
    FailsOnly CmdError.ofContent (stripBlocks c n k f) := by
  induction n generalizing k f with
  | zero =>
    unfold stripBlocks stripTail
    split_ifs
    · exact .ok _
    · exact .error trivial
    · exact verifyBlock_failsOnly ..
  | succ n ih => exact (verifyBlock_failsOnly ..).bind fun _ _ => (ih ..).bind fun _ _ => .ok _

theorem stripAndVerify_failsOnly (c : Cfg) (f : List Byte) (k : Nat) :
    FailsOnly CmdError.ofContent (stripAndVerify c f k) := stripBlocks_failsOnly ..

theorem frameDecode_failsOnly (c : Cfg) (f : List Byte) : FailsOnly CmdError.ofContent (frameDecode c f) := by
  unfold frameDecode
  split
  · exact stripAndVerify_failsOnly ..
  · split_ifs
    · exact .error trivial
    · exact (stripAndVerify_failsOnly ..).bind fun _ _ => (stripAndVerify_failsOnly ..).bind fun _ _ => .ok _

theorem encRanges_failsOnly (c : Cfg) (rs : List ReadRange) : FailsOnly CmdError.ofContent (encRanges c rs) := by
  induction rs with
  | nil => exact .ok _
  | cons r rs ih => exact (encOh_failsOnly ..).bind fun _ _ => ih.bind fun _ _ => .ok _

theorem buildReadRequest_failsOnly (c : Cfg) (src dst : Half) (aseq : BitVec 4) (tseq : BitVec 6)
    (rs : List ReadRange) : FailsOnly CmdError.ofContent (buildReadRequest c src dst aseq tseq rs) := by
  refine (encRanges_failsOnly ..).bind fun _ _ => ?_
  dsimp only
  split_ifs
  · exact .error trivial
  · exact .ok _

theorem parseObjects_failsOnly (c : Cfg) (u : List Byte) (n pos : Nat) :
    FailsOnly CmdError.ofContent (parseObjects c u n pos) := by
  induction n generalizing pos with
  | zero => exact .ok _
  | succ n ih =>
    unfold parseObjects
    split_ifs
    · exact (decOh_failsOnly ..).bind fun _ _ => (ih ..).bind fun _ _ => .ok _
    · exact .ok _

theorem parseFrame_failsOnly (c : Cfg) (f : List Byte) : FailsOnly CmdError.ofContent (parseFrame c f) := by
  refine (frameDecode_failsOnly ..).bind fun u _ => ?_
  unfold parseUnframed
  split_ifs
  · exact .error trivial
  · exact (decDl_failsOnly ..).bind fun _ _ => (decTh_failsOnly ..).bind fun _ _ =>
      (decAh_failsOnly ..).bind fun _ _ => (parseObjects_failsOnly ..).bind fun _ _ => .ok _

/-! ### Every way a command stops -/

/-- `out` is the string the command hands to `EmitOut` (40_crc.md R79). -/
def Stages (i : Instr) (s : State) (out : List Byte) : Prop :=
  match i with
  | .addCrc => ∃ str, s.inputIs str ∧ out = addChecksums s.cfg str
  | .stripCrc => ∃ f, s.inputIs f ∧ stripAndVerify s.cfg f 0 = .ok out
  | .packDl => out = encDl s.dl
  | .packTh => out = encTh s.th
  | .packAh => out = encAh s.cfg s.ah
  | .packOh => encOh s.cfg s.oh = .ok out
  | .buildRead => ∃ rs, buildReadRequest s.cfg s.dl.src s.dl.dest s.ah.seq s.th.seq rs = .ok out
  | .parseFrame => ∃ f p, s.inputIs f ∧ parseFrame s.cfg f = .ok p ∧ out = p.objs.flatMap record
  | .crc16 | .unpackDl | .unpackTh | .unpackAh | .unpackOh | .rangeLen => False

/-- The ways a command stops other than by success. -/
inductive StopsFor (i : Instr) (s : State) : Stop → Prop
  | input {r : Stop} (h : s.checkIn = .error r) : StopsFor i s r
  | offset : StopsFor i s (.raise (.programmerError (.inOffRange s.inOff.toNat)))
  | content (e : CmdError) (h : e.ofContent) : StopsFor i s (.raise e)
  | overflow {out : List Byte} (h : Stages i s out) (hl : s.cfg.outCap < out.length) :
    StopsFor i s (.raise (.programmerError (.outOverflow out.length)))

theorem checkIn_stopsFor (i : Instr) (s : State) : FailsOnly (StopsFor i s) s.checkIn :=
  failsOnly_iff.2 fun _ => .input

theorem unpackInput_stopsFor (i : Instr) (s : State) : FailsOnly (StopsFor i s) s.unpackInput := by
  refine (checkIn_stopsFor i s).bind fun str _ => ?_
  split_ifs
  · exact .error .offset
  · exact .ok _

theorem readRanges_stopsFor (i : Instr) (s : State) : FailsOnly (StopsFor i s) s.readRanges := by
  refine (checkIn_stopsFor i s).bind fun str _ => ?_
  split_ifs
  · exact .error (.content _ trivial)
  · exact .ok _

theorem emitOut_stopsFor {i : Instr} {out : List Byte} (h : Stages i s out) :
    FailsOnly (StopsFor i s) (s.emitOut out) := by
  refine failsOnly_iff.2 fun r hr => ?_
  obtain ⟨hl, rfl⟩ := State.emitOut_eq_error.1 hr
  exact .overflow h hl

theorem raises_stopsFor {α : Type} {x : Except CmdError α} (i : Instr) (s : State)
    (hx : FailsOnly CmdError.ofContent x) : FailsOnly (StopsFor i s) (raises x) := hx.raises .content

/-- A command stops in these ways only. -/
theorem body_stopsFor (i : Instr) (s : State) : FailsOnly (StopsFor i s) (body i s) := by
  cases i with
  | crc16 => exact (checkIn_stopsFor ..).bind fun _ _ => .ok _
  | addCrc =>
    exact (checkIn_stopsFor ..).bind fun str hs => emitOut_stopsFor ⟨str, State.checkIn_eq_ok.1 hs, rfl⟩
  | stripCrc =>
    exact (checkIn_stopsFor ..).bind fun f hf => (raises_stopsFor _ _ (stripAndVerify_failsOnly ..)).bind
      fun str hs => emitOut_stopsFor ⟨f, State.checkIn_eq_ok.1 hf, raises_eq_ok.1 hs⟩
  | packDl | packTh | packAh => exact emitOut_stopsFor rfl
  | packOh =>
    exact (raises_stopsFor _ _ (encOh_failsOnly ..)).bind fun out ho => emitOut_stopsFor (raises_eq_ok.1 ho)
  | unpackDl =>
    exact (unpackInput_stopsFor ..).bind fun _ _ => (raises_stopsFor _ _ (decDl_failsOnly ..)).bind
      fun _ _ => .ok _
  | unpackTh =>
    exact (unpackInput_stopsFor ..).bind fun _ _ => (raises_stopsFor _ _ (decTh_failsOnly ..)).bind
      fun _ _ => .ok _
  | unpackAh =>
    exact (unpackInput_stopsFor ..).bind fun _ _ => (raises_stopsFor _ _ (decAh_failsOnly ..)).bind
      fun _ _ => .ok _
  | unpackOh =>
    exact (unpackInput_stopsFor ..).bind fun _ _ => (raises_stopsFor _ _ (decOh_failsOnly ..)).bind
      fun _ _ => .ok _
  | rangeLen => exact (raises_stopsFor _ _ (rangeLenAt_failsOnly ..)).bind fun _ _ => .ok _
  | buildRead =>
    exact (readRanges_stopsFor ..).bind fun rs _ => (raises_stopsFor _ _ (buildReadRequest_failsOnly ..)).bind
      fun out ho => emitOut_stopsFor ⟨rs, raises_eq_ok.1 ho⟩
  | parseFrame =>
    exact (checkIn_stopsFor ..).bind fun f hf => (raises_stopsFor _ _ (parseFrame_failsOnly ..)).bind fun p hp =>
      (emitOut_stopsFor (i := .parseFrame) ⟨f, p, State.checkIn_eq_ok.1 hf, raises_eq_ok.1 hp, rfl⟩).bind fun _ _ => .ok _

/-- The code and sub-code of OUT_OVERFLOW are no other error's (60_exceptions.md R135). -/
theorem CmdError.eq_outOverflow {e : CmdError} (hcode : e.code = 0x07) (hinfo : e.info0 = 3) :
    ∃ n, e = .programmerError (.outOverflow n) := by
  cases e with
  | programmerError p =>
    cases p with
    | outOverflow n => exact ⟨n, rfl⟩
    | inLenRange | inOffRange | operandRange | lenOverflow | rangeListShape =>
      simp [CmdError.info0, ProgError.subCode] at hinfo
  | checksumMismatch | truncatedHeader | frameTooShort | badStartBytes | truncatedBlock | unsupportedQualifier
  | illegalCommand => simp [CmdError.code] at hcode

/-- OUT_OVERFLOW is raised only for a staged string that is longer than OUT. -/
theorem StopsFor.stages_of_outOverflow {i : Instr} {n : Nat}
    (h : StopsFor i s (.raise (.programmerError (.outOverflow n)))) :
    ∃ out, Stages i s out ∧ s.cfg.outCap < out.length := by
  cases h with
  | input hc => obtain ⟨-, hr⟩ | ⟨-, _, -, -, -, hr⟩ := State.checkIn_eq_error.1 hc <;> cases hr
  | content _ hc => exact hc.elim
  | overflow hs hl => exact ⟨_, hs, hl⟩

theorem stages_of_exec_outOverflow {i : Instr} {t : State} (h : exec i s = .next t) (he : t.err = 0x07)
    (h0 : t.errInfo0 = 3) : ∃ out, Stages i s out ∧ s.cfg.outCap < out.length := by
  obtain ⟨u, -, rfl⟩ | ⟨e, hb, rfl⟩ := exec_next h
  · simp at he
  · obtain ⟨n, rfl⟩ := CmdError.eq_outOverflow (e := e) (by simpa using he) (by simpa using h0)
    exact (failsOnly_iff.1 (body_stopsFor i s) _ hb).stages_of_outOverflow

/-! ### The lengths of the staged strings -/

theorem chunkN_withCrc_length (c : Cfg) (k : Nat) (str : List Byte) :
    ((chunkN k str).flatMap (withCrc c)).length = min (16 * k) str.length + 2 * k := by
  induction k generalizing str with
  | zero => simp [chunkN]
  | succ k ih =>
    rw [chunkN, List.flatMap_cons, List.length_append, ih, withCrc_length, List.length_take, List.length_drop]
    omega

/-- Each block of 16 bytes, the last one possibly shorter, adds the two bytes of its CRC (40_crc.md R83). -/
theorem addChecksums_length (c : Cfg) (str : List Byte) :
    (addChecksums c str).length = str.length + 2 * ((str.length + 15) / 16) := by
  rw [addChecksums, chunk, chunkN_withCrc_length]
  omega

/-- 258 bytes are 17 blocks under either blocking: flat, or the 8-byte header and 16 blocks of the rest (42_frame.md R112). -/
theorem frameEncode_length_le (c : Cfg) (u : List Byte) (h : u.length ≤ 258) : (frameEncode c u).length ≤ 292 := by
  unfold frameEncode
  split
  · rw [addChecksums_length]; omega
  · rw [List.length_append, addChecksums_length, addChecksums_length, List.length_take, List.length_drop]; omega

theorem verifyBlock_eq_ok {c : Cfg} {k : Nat} {blk crc out : List Byte} :
    verifyBlock c k blk crc = .ok out ↔ crc16 c blk = halfAt crc 0 ∧ out = blk := by
  unfold verifyBlock
  split_ifs with h <;> simp [h, eq_comm]

/-- Stripping makes a string no longer. -/
theorem stripBlocks_length_le {c : Cfg} {n k : Nat} {f out : List Byte} (h : stripBlocks c n k f = .ok out) :
    out.length ≤ f.length := by
  induction n generalizing k f out with
  | zero =>
    unfold stripBlocks stripTail at h
    split_ifs at h
    · cases h; simp
    · obtain ⟨-, rfl⟩ := verifyBlock_eq_ok.1 h
      simp
  | succ n ih =>
    obtain ⟨blk, hb, h⟩ := bind_eq_ok.1 h
    obtain ⟨rest, hr, h⟩ := bind_eq_ok.1 h
    obtain ⟨-, rfl⟩ := verifyBlock_eq_ok.1 hb
    cases h
    have := ih hr
    simp only [List.length_append, List.length_take, List.length_drop] at this ⊢
    omega

theorem stripAndVerify_length_le {c : Cfg} {k : Nat} {f out : List Byte} (h : stripAndVerify c f k = .ok out) :
    out.length ≤ f.length := stripBlocks_length_le h

theorem frameDecode_length_le {c : Cfg} {f u : List Byte} (h : frameDecode c f = .ok u) : u.length ≤ f.length := by
  unfold frameDecode at h
  split at h
  · exact stripAndVerify_length_le h
  · split_ifs at h
    obtain ⟨hd, hh, h⟩ := bind_eq_ok.1 h
    obtain ⟨d, hd', h⟩ := bind_eq_ok.1 h
    cases h
    have h1 := stripAndVerify_length_le hh
    have h2 := stripAndVerify_length_le hd'
    simp only [List.length_append, List.length_take, List.length_drop] at h1 h2 ⊢
    omega

/-- Each object header takes at least 3 bytes of the frame. -/
theorem parseObjects_objs_length_le {c : Cfg} {u : List Byte} {n pos : Nat} {objs : List ObjHeader}
    (h : parseObjects c u n pos = .ok objs) : 3 * objs.length ≤ u.length - pos := by
  induction n generalizing pos objs with
  | zero => cases h; simp
  | succ n ih =>
    unfold parseObjects at h
    split_ifs at h
    · obtain ⟨⟨oh, k⟩, hd, h⟩ := bind_eq_ok.1 h
      obtain ⟨rest, hr, h⟩ := bind_eq_ok.1 h
      cases h
      have hrest := ih hr
      obtain ⟨-, hk, rfl, -⟩ := decOh_eq_ok.1 hd
      simp only [List.length_cons]
      omega
    · cases h; simp

/-- The headers before the objects take at least 11 bytes of the frame (42_frame.md R119). -/
theorem parseFrame_objs_length_le {c : Cfg} {f : List Byte} {p : ParsedFrame} (h : parseFrame c f = .ok p) :
    p.objs.length ≤ (f.length - 11) / 3 := by
  obtain ⟨u, hu, h⟩ := bind_eq_ok.1 h
  have hlen := frameDecode_length_le hu
  unfold parseUnframed at h
  split_ifs at h
  obtain ⟨⟨dl, _⟩, -, h⟩ := bind_eq_ok.1 h
  obtain ⟨⟨th, _⟩, -, h⟩ := bind_eq_ok.1 h
  obtain ⟨⟨ah, k⟩, hah, h⟩ := bind_eq_ok.1 h
  obtain ⟨objs, ho, h⟩ := bind_eq_ok.1 h
  cases h
  have hobjs := parseObjects_objs_length_le ho
  have hk : 2 ≤ k := by
    obtain ⟨-, ⟨-, -, rfl, -⟩ | ⟨-, rfl, -⟩⟩ := decAh_eq_ok.1 hah <;> decide
  dsimp only
  omega

/-- The frame of a request has LEN = 5 + |user data| of at most 255, so 258 bytes before framing (42_frame.md R116). -/
theorem buildReadRequest_length_le {c : Cfg} {src dst : Half} {aseq : BitVec 4} {tseq : BitVec 6}
    {rs : List ReadRange} {out : List Byte} (h : buildReadRequest c src dst aseq tseq rs = .ok out) :
    out.length ≤ 292 := by
  obtain ⟨objs, -, h⟩ := bind_eq_ok.1 h
  dsimp only at h
  split_ifs at h with hlen
  cases h
  refine frameEncode_length_le c _ ?_
  rw [List.length_append, encDl_eq]
  simp only [wireDl, List.length_cons, List.length_nil]
  omega

theorem encAh_length_le (c : Cfg) (h : AhHeader) : (encAh c h).length ≤ 4 := by
  unfold encAh
  split_ifs <;> simp [le16]

theorem wireLe_length (v : Word) (n : Nat) : (wireLe v n).length = n := by simp [wireLe]

theorem encOh_length_le {c : Cfg} {h : OhHeader} {out : List Byte} (ho : encOh c h = .ok out) : out.length ≤ 11 := by
  obtain ⟨kind, rl, hr, -, -, rfl⟩ := encOh_eq_ok.1 ho
  obtain ⟨rfl, rfl⟩ | ⟨rfl, hrl⟩ | ⟨rfl, hrl⟩ := rangeLen_rows hr <;>
    simp only [wireObj, wireRange, List.length_append, List.length_cons, List.length_nil, wireLe_length] <;> omega

theorem records_length (objs : List ObjHeader) : (objs.flatMap record).length = 12 * objs.length := by
  induction objs with
  | nil => rfl
  | cons o objs ih => rw [List.flatMap_cons, List.length_append, ih]; simp [record, le32]; omega

/-- R13's two bounds hold the strings whose length depends on the input, and 292 bytes hold the others. -/
theorem stages_length_le {i : Instr} {out : List Byte} (hc : s.cfg.legal = true) (h292 : 292 ≤ s.cfg.outCap)
    (h : Stages i s out) : out.length ≤ s.cfg.outCap := by
  obtain ⟨-, -, -, -, -, hframed, hrecords⟩ := cfg_bounds hc
  cases i with
  | addCrc =>
    obtain ⟨str, ⟨-, hstr, -⟩, rfl⟩ := h
    rw [addChecksums_length]
    omega
  | stripCrc =>
    obtain ⟨f, ⟨-, hf, -⟩, h⟩ := h
    have := stripAndVerify_length_le h
    omega
  | packDl => cases h; exact le_trans (by decide : 8 ≤ 292) h292
  | packTh => cases h; exact le_trans (by decide : 1 ≤ 292) h292
  | packAh =>
    cases h
    have := encAh_length_le s.cfg s.ah
    omega
  | packOh =>
    have := encOh_length_le h
    omega
  | buildRead =>
    obtain ⟨rs, h⟩ := h
    exact (buildReadRequest_length_le h).trans h292
  | parseFrame =>
    obtain ⟨f, p, ⟨-, hf, -⟩, hp, rfl⟩ := h
    have := parseFrame_objs_length_le hp
    rw [records_length]
    omega
  | crc16 | unpackDl | unpackTh | unpackAh | unpackOh | rangeLen => exact h.elim

/-- Settles O37: OUT_OVERFLOW is raised only of a staged string longer than OUT, and every staged string fits. -/
theorem noOutputOverflow : Obligations.NoOutputOverflow := by
  rintro i s t hc h292 h ⟨he, h0⟩
  obtain ⟨out, hout, hlong⟩ := stages_of_exec_outOverflow h he h0
  exact absurd (stages_length_le hc h292 hout) (by omega)

end Sys2Proof.Machine
end

section
/-! PROOFS. What a command changes and what its outcome depends on: the frame of a success, the bytes it stores to OUT, and
the congruence of its pseudocode in the operands of 10_state.md R25. -/

namespace Sys2Proof.Machine

variable {i : Instr} {s s' t u u' : State}

/-! ### The frame of a command -/

/-- A command's pseudocode writes its result registers only (10_state.md R25), and its completion STATUS and PEND. -/
theorem undoResults_succeed_of_body_ok (h : body i s = .ok u) : undoResults i s u.succeed = s := by
  cases i with
  | crc16 => obtain ⟨_, -, rfl⟩ := body_crc16_ok.1 h; rfl
  | addCrc => obtain ⟨_, -, -, rfl⟩ := body_addCrc_ok.1 h; rfl
  | stripCrc => obtain ⟨_, -, _, -, -, rfl⟩ := body_stripCrc_ok.1 h; rfl
  | packDl => obtain ⟨-, rfl⟩ := body_packDl_ok.1 h; rfl
  | packTh => obtain ⟨-, rfl⟩ := body_packTh_ok.1 h; rfl
  | packAh => obtain ⟨-, rfl⟩ := body_packAh_ok.1 h; rfl
  | packOh => obtain ⟨_, -, -, rfl⟩ := body_packOh_ok.1 h; rfl
  | unpackDl => obtain ⟨_, -, -, _, _, -, rfl⟩ := body_unpackDl_ok.1 h; rfl
  | unpackTh => obtain ⟨_, -, -, _, _, -, rfl⟩ := body_unpackTh_ok.1 h; rfl
  | unpackAh => obtain ⟨_, -, -, _, _, -, rfl⟩ := body_unpackAh_ok.1 h; rfl
  | unpackOh => obtain ⟨_, -, -, _, _, -, rfl⟩ := body_unpackOh_ok.1 h; rfl
  | rangeLen => obtain ⟨_, _, -, rfl⟩ := body_rangeLen_ok.1 h; rfl
  | buildRead => obtain ⟨_, -, -, _, -, -, rfl⟩ := body_buildRead_ok.1 h; rfl
  | parseFrame =>
    obtain ⟨_, -, _, -, -, rfl⟩ := body_parseFrame_ok.1 h
    simp [undoResults]

theorem undoResults_raiseError (i : Instr) (s : State) (e : CmdError) : undoResults i s (s.raiseError e) = s := by
  cases i <;> rfl

/-- Settles O32: a success writes the result registers, an error none of them. -/
theorem commandsWriteOnlyTheirResults : Obligations.CommandsWriteOnlyTheirResults := by
  intro i s t h
  obtain ⟨u, hu, rfl⟩ | ⟨e, -, rfl⟩ := exec_next h
  · exact undoResults_succeed_of_body_ok hu
  · exact undoResults_raiseError i s e

/-- The configuration, IN and the poll are no command's results (10_state.md R25). -/
theorem undoResults_untouched (i : Instr) (s t : State) : (undoResults i s t).cfg = t.cfg ∧
    (undoResults i s t).inBuf = t.inBuf ∧ (undoResults i s t).polling = t.polling := by
  cases i <;> exact ⟨rfl, rfl, rfl⟩

/-- A command keeps the configuration, IN and the poll. -/
theorem exec_untouched (h : exec i s = .next t) : t.cfg = s.cfg ∧ t.inBuf = s.inBuf ∧ t.polling = s.polling := by
  have hu := undoResults_untouched i s t
  rw [commandsWriteOnlyTheirResults i s t h] at hu
  obtain ⟨hcfg, hin, hpoll⟩ := hu
  exact ⟨hcfg.symm, hin.symm, hpoll.symm⟩

/-! ### The bytes a command stores -/

/-- An error is told from a success by its code (60_exceptions.md R128). -/
theorem CmdError.code_ne_zero (e : CmdError) : e.code ≠ 0 := by
  have hcode := e.code_bounds.1
  intro h
  rw [h] at hcode
  exact absurd hcode (by decide)

theorem outCap_le_of_legal {c : Cfg} (h : c.legal = true) : c.outCap ≤ 16384 := by
  obtain ⟨-, -, -, -, hcap, -⟩ := cfg_bounds h
  exact hcap

/-- OUT and OUT_LEN after a success hold a string that `EmitOut` let through. -/
def State.Stored (s u : State) : Prop :=
  ∃ out : List Byte, out.length ≤ s.cfg.outCap ∧ u.outBuf = s.outBuf.writeAll 0 out ∧
    u.outLen = BitVec.ofNat 16 out.length

theorem State.stored_succeed : s.Stored u.succeed ↔ s.Stored u := Iff.rfl

theorem stored_of_body_ok (hi : writesOut i = true) (h : body i s = .ok u) : s.Stored u := by
  cases i with
  | addCrc => obtain ⟨_, -, hl, rfl⟩ := body_addCrc_ok.1 h; exact ⟨_, hl, rfl, rfl⟩
  | stripCrc => obtain ⟨_, -, _, -, hl, rfl⟩ := body_stripCrc_ok.1 h; exact ⟨_, hl, rfl, rfl⟩
  | packDl => obtain ⟨hl, rfl⟩ := body_packDl_ok.1 h; exact ⟨_, hl, rfl, rfl⟩
  | packTh => obtain ⟨hl, rfl⟩ := body_packTh_ok.1 h; exact ⟨_, hl, rfl, rfl⟩
  | packAh => obtain ⟨hl, rfl⟩ := body_packAh_ok.1 h; exact ⟨_, hl, rfl, rfl⟩
  | packOh => obtain ⟨_, -, hl, rfl⟩ := body_packOh_ok.1 h; exact ⟨_, hl, rfl, rfl⟩
  | buildRead => obtain ⟨_, -, -, _, -, hl, rfl⟩ := body_buildRead_ok.1 h; exact ⟨_, hl, rfl, rfl⟩
  | parseFrame => obtain ⟨_, -, _, -, hl, rfl⟩ := body_parseFrame_ok.1 h; exact ⟨_, hl, rfl, rfl⟩
  | crc16 | unpackDl | unpackTh | unpackAh | unpackOh | rangeLen => cases hi

/-- OUT and OUT_LEN are results of the commands that write OUT only. -/
theorem undoResults_output (hi : writesOut i = false) (s t : State) :
    (undoResults i s t).outBuf = t.outBuf ∧ (undoResults i s t).outLen = t.outLen := by
  cases i with
  | crc16 | unpackDl | unpackTh | unpackAh | unpackOh | rangeLen => exact ⟨rfl, rfl⟩
  | addCrc | stripCrc | packDl | packTh | packAh | packOh | buildRead | parseFrame => cases hi

/-- What a command does to OUT and OUT_LEN: it stores a string, or leaves both; it stores only with success. -/
theorem exec_output (h : exec i s = .next t) :
    (writesOut i = true ∧ t.err = 0 ∧ s.Stored t) ∨
      ((writesOut i = false ∨ t.err ≠ 0) ∧ t.outBuf = s.outBuf ∧ t.outLen = s.outLen) := by
  cases hw : writesOut i with
  | false =>
    have hout := undoResults_output hw s t
    rw [commandsWriteOnlyTheirResults i s t h] at hout
    exact .inr ⟨.inl rfl, hout.1.symm, hout.2.symm⟩
  | true =>
    obtain ⟨u, hu, rfl⟩ | ⟨e, -, rfl⟩ := exec_next h
    · exact .inl ⟨rfl, rfl, State.stored_succeed.2 (stored_of_body_ok hw hu)⟩
    · exact .inr ⟨.inr e.code_ne_zero, rfl, rfl⟩

theorem State.Stored.outLen_le (h : s.Stored t) : t.outLen.toNat ≤ s.cfg.outCap := by
  obtain ⟨out, hlen, -, hout⟩ := h
  rw [hout, BitVec.toNat_ofNat]
  exact (Nat.mod_le _ _).trans hlen

section
variable (h : s.Stored t) (hcap : s.cfg.outCap ≤ 16384)
include h hcap

theorem State.Stored.written {j : Nat} (hj : j < t.outLen.toNat) : (t.outBuf.read j).isSome := by
  obtain ⟨out, hlen, hbuf, hout⟩ := h
  rw [hout, BitVec.toNat_ofNat, Nat.mod_eq_of_lt (by omega)] at hj
  simp [hbuf, Memory.read_writeAll, hj]

theorem State.Stored.read_above {j : Nat} (hj : t.outLen.toNat ≤ j) : t.outBuf.read j = s.outBuf.read j := by
  obtain ⟨out, hlen, hbuf, hout⟩ := h
  rw [hout, BitVec.toNat_ofNat, Nat.mod_eq_of_lt (by omega)] at hj
  rw [hbuf, Memory.read_writeAll, if_neg (by omega)]

end

/-- Settles O33: a command stores exactly the string it emits. -/
theorem commandsStoreOnlyTheOutput : Obligations.CommandsStoreOnlyTheOutput := by
  intro i s t hc h
  have hcap := outCap_le_of_legal hc
  obtain ⟨-, hin, -⟩ := exec_untouched h
  refine ⟨hin, ?_⟩
  obtain ⟨hw, he, hst⟩ | ⟨hn, hbuf, -⟩ := exec_output h
  · exact ⟨fun _ _ => ⟨fun _ => hst.written hcap, fun _ => hst.read_above hcap⟩,
      fun hn => by simp [hw, he] at hn⟩
  · exact ⟨fun hw he => by simp [hw, he] at hn, fun _ j => by rw [hbuf]⟩

/-! ### Two runs on the same operands -/

/-- Two results that stop in the same way, or succeed with values related by `R`. -/
inductive Agree {ε α β : Type} (R : α → β → Prop) : Except ε α → Except ε β → Prop
  | ok {a : α} {b : β} (h : R a b) : Agree R (.ok a) (.ok b)
  | error (e : ε) : Agree R (.error e) (.error e)

theorem Agree.bind {ε α β γ δ : Type} {R : α → β → Prop} {Q : γ → δ → Prop} {x : Except ε α} {y : Except ε β}
    {f : α → Except ε γ} {g : β → Except ε δ} (h : Agree R x y) (hfg : ∀ a b, R a b → Agree Q (f a) (g b)) :
    Agree Q (x >>= f) (y >>= g) := by
  cases h with
  | ok h => exact hfg _ _ h
  | error e => exact .error e

/-- Two runs whose first part is the same. -/
theorem Agree.bind_eq {ε α γ δ : Type} {Q : γ → δ → Prop} {x y : Except ε α} {f : α → Except ε γ} {g : α → Except ε δ}
    (h : x = y) (hfg : ∀ a, Agree Q (f a) (g a)) : Agree Q (x >>= f) (y >>= g) := by
  subst h
  cases x with
  | ok a => exact hfg a
  | error e => exact .error e

theorem checkIn_congr (hc : s.cfg = s'.cfg) (h : sameInput s s') : s.checkIn = s'.checkIn := by
  obtain ⟨hlen, hin⟩ := h
  have hread : s.inBuf.readAll 0 s.inLen.toNat = s'.inBuf.readAll 0 s.inLen.toNat :=
    Memory.readAll_congr fun j hj => by rw [Nat.zero_add, hin j hj]
  simp only [State.checkIn, State.readIn, hread, ← hlen, ← hc]

theorem unpackInput_congr (hc : s.cfg = s'.cfg) (h : sameInput s s') (ho : s.inOff = s'.inOff) :
    s.unpackInput = s'.unpackInput := by
  rw [State.unpackInput, State.unpackInput, checkIn_congr hc h, ho]

theorem readRanges_congr (hc : s.cfg = s'.cfg) (h : sameInput s s') : s.readRanges = s'.readRanges := by
  rw [State.readRanges, State.readRanges, checkIn_congr hc h]

/-- The same string emitted by two states is the same output, whatever OUT held before. -/
theorem setOutput_sameOutput (s s' : State) (out : List Byte) : sameOutput (s.setOutput out) (s'.setOutput out) := by
  refine ⟨rfl, fun j hj => ?_⟩
  have hj : j < out.length := hj.trans_le ((BitVec.toNat_ofNat ..).trans_le (Nat.mod_le _ _))
  simp [Memory.read_writeAll, hj]

theorem emitOut_agree (hc : s.cfg = s'.cfg) (out : List Byte) : Agree sameOutput (s.emitOut out) (s'.emitOut out) := by
  unfold State.emitOut
  rw [hc]
  split_ifs
  · exact .error _
  · exact .ok (setOutput_sameOutput s s' out)

/-- The pseudocode of a command reads nothing but its operands (10_state.md R25). -/
theorem body_agree (h : sameOperands i s s') : Agree (sameResults i) (body i s) (body i s') := by
  obtain ⟨hc, hops⟩ := h
  cases i with
  | crc16 => exact .bind_eq (checkIn_congr hc hops) fun str => .ok (by simp [sameResults, hc])
  | addCrc =>
    refine .bind_eq (checkIn_congr hc hops) fun str => ?_
    rw [hc]
    exact emitOut_agree hc _
  | stripCrc =>
    refine .bind_eq (checkIn_congr hc hops) fun f => ?_
    rw [hc]
    exact .bind_eq rfl fun str => emitOut_agree hc _
  | packDl => rw [body, body, show s.dl = s'.dl from hops]; exact emitOut_agree hc _
  | packTh => rw [body, body, show s.th = s'.th from hops]; exact emitOut_agree hc _
  | packAh => rw [body, body, hc, show s.ah = s'.ah from hops]; exact emitOut_agree hc _
  | packOh =>
    rw [body, body, hc, show s.oh = s'.oh from hops]
    exact .bind_eq rfl fun out => emitOut_agree hc _
  | unpackDl =>
    exact .bind_eq (unpackInput_congr hc hops.1 hops.2) fun _ => .bind_eq rfl fun _ => .ok ⟨rfl, rfl⟩
  | unpackTh =>
    exact .bind_eq (unpackInput_congr hc hops.1 hops.2) fun _ => .bind_eq rfl fun _ => .ok ⟨rfl, rfl⟩
  | unpackAh =>
    exact .bind_eq (unpackInput_congr hc hops.1 hops.2) fun _ => .bind_eq (by rw [hc]) fun _ => .ok ⟨rfl, rfl⟩
  | unpackOh =>
    exact .bind_eq (unpackInput_congr hc hops.1 hops.2) fun _ => .bind_eq (by rw [hc]) fun _ => .ok ⟨rfl, rfl, rfl⟩
  | rangeLen =>
    rw [body, body, hc, show s.oh.qual = s'.oh.qual from hops]
    exact .bind_eq rfl fun _ => .ok rfl
  | buildRead =>
    obtain ⟨hin, hdest, hsrc, htseq, haseq⟩ := hops
    refine .bind_eq (readRanges_congr hc hin) fun rs => ?_
    rw [hc, hdest, hsrc, htseq, haseq]
    exact .bind_eq rfl fun f => emitOut_agree hc _
  | parseFrame =>
    refine .bind_eq (checkIn_congr hc hops) fun f => ?_
    rw [hc]
    exact .bind_eq rfl fun p => (emitOut_agree hc _).bind fun _ _ hout => .ok ⟨rfl, rfl, rfl, rfl, hout⟩

/-- STATUS and PEND are no results. -/
theorem sameResults_succeed (h : sameResults i u u') : sameResults i u.succeed u'.succeed := by
  cases i <;> exact h

/-- Settles O36: the two runs of the pseudocode agree, and each run completes as its pseudocode ends. -/
theorem resultsDependOnOperandsOnly : Obligations.ResultsDependOnOperandsOnly := by
  intro i s s' t hops h
  have hagree := body_agree hops
  obtain ⟨u, hu, rfl⟩ | ⟨e, he, rfl⟩ := exec_next h
  · rw [hu] at hagree
    generalize hb : body i s' = x' at hagree
    cases hagree with
    | ok hres => exact ⟨_, exec_of_body_ok hb, rfl, fun _ => sameResults_succeed hres, fun hne => absurd rfl hne⟩
  · rw [he] at hagree
    generalize hb : body i s' = x' at hagree
    cases hagree with
    | error =>
      exact ⟨_, exec_of_body_raise hb, rfl, fun h0 => absurd h0 e.code_ne_zero, fun _ => ⟨rfl, rfl⟩⟩

end Sys2Proof.Machine
end

section
/-! PROOFS. What every step keeps. One step is made of a few operations: the schedule and the host agent move on, the host
reads or writes, reset is asserted, or a command completes. A property that each of them keeps is kept by every step
(`Kept.step`); the configuration and the invariant are two such properties. -/

namespace Sys2Proof.Machine

variable {P : State → Prop} {s t : State}

/-! ### From the operations to the step -/

/-- `P` is kept by every operation a step is made of. -/
structure Kept (P : State → Prop) : Prop where
  schedule {s : State} (env : List Event) : P s → P { s with env := env }
  agent {s : State} (host : HostAgent) : P s → P { s with host := host }
  read {s t : State} {off : Nat} {w : Width} {v : Word} : P s → s.hostRead off w = .ok (v, t) → P t
  write {s t : State} {off : Nat} {w : Width} {v : Word} : P s → s.hostWrite off w v = .ok t → P t
  reset {s : State} : P s → P s.resetEvent
  command {s t : State} {i : Instr} : P s → exec i s = .next t → P t
  illegal {s : State} (w : Word) : P s → P (s.raiseError (.illegalCommand w))

/-- An outcome whose next state, if there is one, has `P`. -/
inductive NextOnly (P : State → Prop) : Host.Outcome State Fault Refusal → Prop
  | next {t : State} (h : P t) : NextOnly P (.next t)
  | fault (f : Fault) : NextOnly P (.fault f)
  | refused (r : Refusal) : NextOnly P (.refused r)

section
variable (hP : Kept P) (h : P s)
include hP h

theorem Kept.exec (i : Instr) : NextOnly P (exec i s) := by
  cases he : Machine.exec i s with
  | next t => exact .next (hP.command h he)
  | fault f => exact .fault f
  | refused r => exact .refused r

theorem Kept.engineTurn : NextOnly P s.engineTurn := by
  unfold State.engineTurn State.runWord
  split
  · exact .next h
  · split
    · exact hP.exec h _
    · exact .next (hP.illegal _ h)

theorem Kept.hostLoad (r : Fin 8) (off : Nat) (w : Width) : NextOnly P (s.hostLoad r off w) := by
  unfold State.hostLoad
  split
  next hr => exact .next (hP.agent _ (hP.read h hr))
  next => exact .fault _

theorem Kept.hostStore (off : Nat) (w : Width) (v : Word) : NextOnly P (s.hostStore off w v) := by
  unfold State.hostStore
  split
  next hw => exact .next (hP.agent _ (hP.write h hw))
  next => exact .fault _

theorem Kept.hostStmt (st : HostStmt) : NextOnly P (s.hostStmt st) := by
  cases st with
  | rd32 | rd8 => exact hP.hostLoad h ..
  | wr32 | wr8 => exact hP.hostStore h ..
  | add | and | shr | beq | bne | jmp | halt => exact .next (hP.agent _ h)

theorem Kept.hostTurn : NextOnly P s.hostTurn := by
  unfold State.hostTurn
  split_ifs
  · exact .next h
  · split
    · exact .next h
    · exact hP.hostStmt h _

theorem Kept.busAccess (addr : Nat) (w : Width) (op : BusOp) : NextOnly P (s.busAccess addr w op) := by
  unfold State.busAccess
  split
  · exact .next h
  · cases op with
    | read =>
      dsimp only
      split
      next hr => exact .next (hP.read h hr)
      next => exact .fault _
    | write v =>
      dsimp only
      split
      next hw => exact .next (hP.write h hw)
      next => exact .fault _

theorem Kept.runEvent (e : Event) : NextOnly P (s.runEvent e) := by
  cases e with
  | engine => exact hP.engineTurn h
  | host => exact hP.hostTurn h
  | reset => exact .next (hP.reset h)
  | bus addr w op => exact hP.busAccess h addr w op

theorem Kept.advance : NextOnly P s.advance := by
  unfold State.advance
  split
  · unfold State.defaultTurn
    split_ifs
    · exact hP.engineTurn h
    · exact hP.hostTurn h
  · exact hP.runEvent (hP.schedule _ h) _

/-- Every step keeps what each of its operations keeps. -/
theorem Kept.step (hs : step s = .next t) : P t := by
  have hnext : NextOnly P (Machine.step s) := hP.advance h
  rw [hs] at hnext
  cases hnext with
  | next ht => exact ht

end

/-! ### The configuration -/

theorem hostRead_cfg {off : Nat} {w : Width} {v : Word} (h : s.hostRead off w = .ok (v, t)) : t.cfg = s.cfg := by
  rw [hostRead_frame h]

/-- No operation writes the configuration (10_state.md R19). -/
theorem cfg_kept (c : Cfg) : Kept (fun s => s.cfg = c) where
  schedule _ := id
  agent _ := id
  read h hr := (hostRead_cfg hr).trans h
  write h hw := (hostWrite_frame hw).1.trans h
  reset := id
  command h he := (exec_untouched he).1.trans h
  illegal _ := id

/-- Settles O38: every operation of a step keeps the configuration. -/
theorem noStepChangesTheConfiguration : Obligations.NoStepChangesTheConfiguration :=
  fun s _ hs => (cfg_kept s.cfg).step rfl hs

/-! ### The invariant -/

theorem mustPoll_eq_true {c : Cfg} : mustPoll c = true ↔ c.busyEnd = .atPoll := by
  unfold mustPoll
  split <;> simp_all

namespace State.Inv

/-- The busy interval of a command in flight, and where it ends with the command, nothing more (10_state.md R31, R32). -/
theorem awaiting_of_pending (h : s.Inv) (hp : s.pend ≠ none) : s.awaiting = true := by
  rw [awaiting_eq_true, h.busyIffPending]
  exact .inl (Option.isSome_iff_ne_none.2 hp)

theorem awaiting_iff_pending (h : s.Inv) (hc : s.cfg.busyEnd = .atCompletion) :
    s.awaiting = true ↔ s.pend ≠ none := by
  refine ⟨fun ha => ?_, h.awaiting_of_pending⟩
  obtain hb | hpoll := awaiting_eq_true.1 ha
  · exact Option.isSome_iff_ne_none.1 (h.busyIffPending ▸ hb)
  · cases hc.symm.trans (h.pollsByConfig hpoll)

/-- A read moves the observation fields, and ends the poll only while no command is pending. -/
theorem hostRead {off : Nat} {w : Width} {v : Word} (h : s.Inv) (hr : s.hostRead off w = .ok (v, t)) : t.Inv := by
  obtain ⟨_, e⟩ | ⟨-, e⟩ | ⟨_, x, -, -, -, e⟩ := hostRead_cases s off w
  · simp [e] at hr
  · obtain ⟨rfl, rfl⟩ := Prod.mk.inj (Except.ok.inj (e.symm.trans hr))
    exact { h with }
  · obtain ⟨rfl, rfl⟩ := Prod.mk.inj (Except.ok.inj (e.symm.trans hr))
    exact { h with
      busyPolls := fun hb hc => Bool.and_eq_true_iff.2 ⟨h.busyPolls hb hc, hb⟩
      pollsByConfig := fun hp => h.pollsByConfig (Bool.and_eq_true_iff.1 hp).1 }

/-- A write to CMD makes a command pending and the poll due where the configuration asks for it. -/
theorem issueCommand (h : s.Inv) (v : Word) : (s.issueCommand v).Inv :=
  { h with
    busyIffPending := rfl
    busyPolls := fun _ => mustPoll_eq_true.2
    pollsByConfig := mustPoll_eq_true.1
    busyClears := fun _ => ⟨rfl, rfl⟩
    errProduced := Nat.zero_le _ }

/-- Of the registers a host writes, the invariant speaks of CMD only. -/
theorem writeReg (h : s.Inv) (r : Reg) (v : Word) : (s.writeReg r v).Inv := by
  cases r with
  | cmd => exact h.issueCommand v
  | status | errInfo0 | errInfo1 | outLen | consumed | crc | rlen | objCount => exact h
  | inLen | inOff | dl0 | dl1 | th | ah | oh0 | ohA | ohB => exact { h with }

theorem hostWrite {off : Nat} {w : Width} {v : Word} (h : s.Inv) (hw : s.hostWrite off w v = .ok t) : t.Inv := by
  obtain ⟨_, e⟩ | ⟨-, r, -, e⟩ | ⟨-, i, hacc, e⟩ := hostWrite_cases s off w v
  · simp [e] at hw
  · obtain rfl := Except.ok.inj (e.symm.trans hw)
    exact h.writeReg r v
  · obtain rfl := Except.ok.inj (e.symm.trans hw)
    obtain ⟨-, hi, -⟩ := access_inBuf hacc
    have hlen : i + ((le32 v).take w.bytes).length ≤ s.cfg.inCap := by
      rw [List.length_take]; omega
    exact { h with inputInside := Memory.inside_writeAll _ h.inputInside hlen }

theorem resetEvent (h : s.Inv) : s.resetEvent.Inv where
  cfgLegal := h.cfgLegal
  busyIffPending := rfl
  busyPolls hb := by cases hb
  pollsByConfig hp := by cases hp
  busyClears hb := by cases hb
  errProduced := Nat.zero_le _
  rlenLegal := rfl
  consumedBound := Nat.zero_le _
  inputInside := rfl
  outputInside := rfl
  outLenBound := Nat.zero_le _
  outputWritten j hj := absurd hj j.not_lt_zero

/-- An error completes the command and writes nothing the invariant speaks of but its code. -/
theorem raiseError (h : s.Inv) (e : CmdError) : (s.raiseError e).Inv :=
  { h with
    busyIffPending := rfl
    busyPolls := fun hb => by cases hb
    busyClears := fun hb => by cases hb
    errProduced := e.code_bounds.2 }

end State.Inv

/-- A success leaves RLEN, or writes a row of the configuration's qualifier table (10_state.md R27). -/
theorem rlen_of_body_ok {i : Instr} (h : body i s = .ok t) : t.rlen = s.rlen ∨ t.rlen.legal = true := by
  have hframe := undoResults_succeed_of_body_ok h
  cases i with
  | unpackOh =>
    obtain ⟨_, -, -, _, _, hd, rfl⟩ := body_unpackOh_ok.1 h
    exact .inr (rangeReg_legal (decOh_row hd).1)
  | rangeLen =>
    obtain ⟨_, _, hr, rfl⟩ := body_rangeLen_ok.1 h
    exact .inr (rangeReg_legal hr)
  | crc16 | addCrc | stripCrc | packDl | packTh | packAh | packOh | unpackDl | unpackTh | unpackAh | buildRead
  | parseFrame => exact .inl (congrArg State.rlen hframe :)

/-- A success leaves CONSUMED, or writes a header's length (10_state.md R28). -/
theorem consumed_of_body_ok {i : Instr} (h : body i s = .ok t) :
    t.consumed = s.consumed ∨ ∃ k ≤ 11, t.consumed = BitVec.ofNat 16 k := by
  have hframe := undoResults_succeed_of_body_ok h
  cases i with
  | unpackDl =>
    obtain ⟨_, -, -, _, k, hd, rfl⟩ := body_unpackDl_ok.1 h
    obtain ⟨-, -, -, hk, -⟩ := decDl_eq_ok.1 hd
    exact .inr ⟨k, by omega, rfl⟩
  | unpackTh =>
    obtain ⟨_, -, -, _, k, hd, rfl⟩ := body_unpackTh_ok.1 h
    obtain ⟨-, hk, -⟩ := decTh_eq_ok.1 hd
    exact .inr ⟨k, by omega, rfl⟩
  | unpackAh =>
    obtain ⟨_, -, -, _, k, hd, rfl⟩ := body_unpackAh_ok.1 h
    obtain ⟨-, ⟨-, -, hk, -⟩ | ⟨-, hk, -⟩⟩ := decAh_eq_ok.1 hd <;> exact .inr ⟨k, by omega, rfl⟩
  | unpackOh =>
    obtain ⟨_, -, -, _, k, hd, rfl⟩ := body_unpackOh_ok.1 h
    obtain ⟨-, -, hk, -⟩ := decOh_eq_ok.1 hd
    obtain ⟨-, hrl, -⟩ := decOh_row hd
    exact .inr ⟨k, by omega, rfl⟩
  | crc16 | addCrc | stripCrc | packDl | packTh | packAh | packOh | rangeLen | buildRead | parseFrame =>
    exact .inl (congrArg State.consumed hframe :)

namespace State.Inv

/-- What a command stores keeps OUT inside its capacity and OUT[0..OUT_LEN) written. -/
theorem exec {i : Instr} (h : s.Inv) (he : exec i s = .next t) : t.Inv := by
  obtain ⟨u, hu, rfl⟩ | ⟨e, -, rfl⟩ := exec_next he
  case inr => exact h.raiseError e
  have hcap := outCap_le_of_legal h.cfgLegal
  obtain ⟨hcfg, hin, hpoll⟩ := exec_untouched he
  have hout : u.succeed.outBuf.inside s.cfg.outCap = true ∧ u.succeed.outLen.toNat ≤ s.cfg.outCap ∧
      ∀ j, j < u.succeed.outLen.toNat → (u.succeed.outBuf.read j).isSome := by
    obtain ⟨-, -, hst⟩ | ⟨-, hbuf, hlen⟩ := exec_output he
    · refine ⟨?_, hst.outLen_le, fun _ => hst.written hcap⟩
      obtain ⟨out, hl, hbuf, -⟩ := hst
      rw [hbuf]
      exact Memory.inside_writeAll _ h.outputInside (by omega)
    · rw [hbuf, hlen]
      exact ⟨h.outputInside, h.outLenBound, h.outputWritten⟩
  obtain ⟨hinside, hbound, hwritten⟩ := hout
  exact {
    cfgLegal := by rw [hcfg]; exact h.cfgLegal
    busyIffPending := rfl
    busyPolls := fun hb => by cases hb
    pollsByConfig := by rw [hpoll, hcfg]; exact h.pollsByConfig
    busyClears := fun hb => by cases hb
    errProduced := Nat.zero_le _
    rlenLegal := (rlen_of_body_ok hu).elim (fun hr => hr ▸ h.rlenLegal) id
    consumedBound := by
      obtain hc | ⟨k, hk, hc⟩ := consumed_of_body_ok hu
      · rw [State.succeed_consumed, hc]; exact h.consumedBound
      · rw [State.succeed_consumed, hc, BitVec.toNat_ofNat]; omega
    inputInside := by rw [hcfg, hin]; exact h.inputInside
    outputInside := by rw [hcfg]; exact hinside
    outLenBound := by rw [hcfg]; exact hbound
    outputWritten := hwritten }

end State.Inv

theorem inv_kept : Kept State.Inv where
  schedule _ h := { h with }
  agent _ h := { h with }
  read h hr := h.hostRead hr
  write h hw := h.hostWrite hw
  reset h := h.resetEvent
  command h he := h.exec he
  illegal w h := h.raiseError (.illegalCommand w)

/-- Settles O40: every operation of a step keeps the invariant. -/
theorem everyStepKeepsInv : Obligations.EveryStepKeepsInv :=
  fun _ _ h hs => inv_kept.step h hs

end Sys2Proof.Machine
end

section
/-! PROOFS. The host's accesses in and outside the busy interval: the reads of STATUS, of a register and of a draw, the
register block as the host sees it, and the issue of a command with the engine step that runs it. -/

namespace Sys2Proof.Machine

variable {s : State}

/-! ### Reads and writes of registers -/

/-- A read of a register outside the busy interval, and of STATUS at any time, returns its word (20_memory.md R42). -/
theorem hostRead_reg {r : Reg} (h : s.awaiting = false ∨ r = .status) :
    s.hostRead r.offset .w32 = .ok (s.regWord r, s.observe (s.regWord r)) := by
  have hno : ¬ (s.awaiting = true ∧ Place.reg r ≠ .reg .status) := by
    rintro ⟨ha, hr⟩
    obtain h | rfl := h
    · simp [h] at ha
    · exact hr rfl
  rw [State.hostRead, access_reg]
  exact if_neg hno

/-- An allowed read of anything but STATUS in the busy interval is a fresh draw (10_state.md R33). -/
theorem hostRead_draw {off : Nat} {w : Width} {p : Place} (h : s.awaiting = true) (hacc : access s.cfg off w = .ok p)
    (hp : p ≠ .reg .status) : s.hostRead off w =
      .ok (drawValue s.draws w, { s with rdata := some (drawValue s.draws w), draws := s.draws + 1 }) := by
  rw [State.hostRead, hacc]
  exact if_pos ⟨h, hp⟩

theorem hostWrite_reg (h : s.awaiting = false) (r : Reg) (v : Word) :
    s.hostWrite r.offset .w32 v = .ok (s.writeReg r v) := by
  rw [State.hostWrite, access_reg]
  exact if_neg (by simp [h])

/-- No write is allowed in the busy interval (10_state.md R33). -/
theorem hostWrite_of_awaiting (h : s.awaiting = true) (off : Nat) (w : Width) (v : Word) :
    ∃ r, s.hostWrite off w v = .error (.hostFault r off w) := by
  obtain hf | ⟨hn, -⟩ | ⟨hn, -⟩ := hostWrite_cases s off w v
  · exact hf
  all_goals exact absurd h (by simp [hn])

/-- The register block takes no 8-bit access (20_memory.md R43). -/
theorem access_w8_ne_reg {c : Cfg} {off : Nat} {p : Place} (h : access c off .w8 = .ok p) (r : Reg) : p ≠ .reg r := by
  rintro rfl
  unfold access at h
  split at h
  · cases h
  · split at h
    next hw => cases h; simp [checkWidth] at hw
    next => cases h

/-- Settles O53: the invariant links the busy interval to the pending command; in it writes fault, STATUS is read and every
other allowed read is a draw. -/
theorem busyHostAccesses : Obligations.BusyHostAccesses := by
  refine ⟨fun s h => ⟨h.awaiting_of_pending, h.awaiting_iff_pending⟩, fun s hbusy => ?_⟩
  have ha : s.awaiting = true := awaiting_eq_true.2 hbusy
  have hstatus : s.hostRead 0x04 .w32 = .ok (s.statusWord, s.observe s.statusWord) :=
    hostRead_reg (r := .status) (.inr rfl)
  refine ⟨ha, hostWrite_of_awaiting ha, fun hb => ?_, fun hb => ?_, fun off p hacc hp => hostRead_draw ha hacc hp,
    fun off p hacc => ⟨_, rfl, hostRead_draw ha hacc (access_w8_ne_reg hacc _)⟩⟩
  · rw [hstatus, State.observe, hb, Bool.and_true]
  · rw [hstatus, State.observe, hb, Bool.and_false]

/-! ### Fields of a word -/

section
variable {k l m n p q : Nat}

theorem setWidth_eq_zeros_append (x : BitVec n) : x.setWidth (k + n) = 0#k ++ x := by
  rw [BitVec.setWidth_eq_append (Nat.le_add_left ..)]
  simp

/-- Three fields joined below a fourth are the four fields in a row. -/
theorem append_fields₃ (w : BitVec k) (x : BitVec l) (y : BitVec m) (z : BitVec n) :
    w ++ (x ++ y ++ z) = (w ++ x ++ y ++ z).cast (by omega) := by
  apply BitVec.eq_of_toNat_eq
  simp [BitVec.toNat_append, Nat.shiftLeft_or_distrib, ← Nat.shiftLeft_add, Nat.or_assoc]

/-- Five fields joined below a sixth are the six fields in a row. -/
theorem append_fields₅ (w : BitVec k) (u : BitVec p) (v : BitVec q) (x : BitVec l) (y : BitVec m) (z : BitVec n) :
    w ++ (u ++ v ++ x ++ y ++ z) = (w ++ u ++ v ++ x ++ y ++ z).cast (by omega) := by
  apply BitVec.eq_of_toNat_eq
  simp [BitVec.toNat_append, Nat.shiftLeft_or_distrib, ← Nat.shiftLeft_add, Nat.or_assoc]

variable (hn : n ≤ 32)
include hn

/-- The low `n` bits of a word are the word under a mask of `n` ones. -/
theorem setWidth_extractLsb'_zero (v : Word) :
    (v.extractLsb' 0 n).setWidth 32 = v &&& BitVec.ofNat 32 (2 ^ n - 1) := by
  have hle : 2 ^ n ≤ 2 ^ 32 := Nat.pow_le_pow_right (by decide) hn
  have hmod : v.toNat % 2 ^ n < 2 ^ n := Nat.mod_lt _ (Nat.two_pow_pos n)
  apply BitVec.eq_of_toNat_eq
  rw [BitVec.toNat_and, BitVec.toNat_ofNat, BitVec.toNat_setWidth, BitVec.extractLsb'_toNat, Nat.shiftRight_zero,
    Nat.mod_eq_of_lt (a := 2 ^ n - 1) (by omega), Nat.and_two_pow_sub_one_eq_mod]
  exact Nat.mod_eq_of_lt (by omega)

/-- Above its field a zero-extended field is 0. -/
theorem setWidth_and_not_mask (x : BitVec n) : x.setWidth 32 &&& ~~~ BitVec.ofNat 32 (2 ^ n - 1) = 0 := by
  have hx := setWidth_extractLsb'_zero hn (x.setWidth 32)
  rw [BitVec.extractLsb'_setWidth_of_le (by omega), BitVec.extractLsb'_eq_self] at hx
  rw [hx, BitVec.and_assoc, BitVec.and_not_self]
  exact BitVec.and_zero

end

/-! ### The words of the register block (10_state.md R22) -/

section
variable (s : State)

theorem half_setWidth (x : Half) : x.setWidth 32 = 0#16 ++ x := setWidth_eq_zeros_append (k := 16) x

theorem regWord_status :
    s.regWord .status = 0#16 ++ s.err ++ 0#6 ++ BitVec.ofBool s.done ++ BitVec.ofBool s.busy :=
  calc
    s.regWord .status = 0#16 ++ (s.err ++ (0#6 ++ BitVec.ofBool s.done ++ BitVec.ofBool s.busy)) :=
      setWidth_eq_zeros_append (k := 16) (n := 16) _
    _ = 0#16 ++ s.err ++ (0#6 ++ BitVec.ofBool s.done ++ BitVec.ofBool s.busy) := BitVec.append_assoc'
    _ = 0#16 ++ s.err ++ 0#6 ++ BitVec.ofBool s.done ++ BitVec.ofBool s.busy := append_fields₃ ..

theorem regWord_rlen_setWidth : s.regWord .rlen = (s.rlen.kind ++ s.rlen.len).setWidth 32 :=
  BitVec.setWidth_setWidth (by decide)

theorem regWord_rlen : s.regWord .rlen = 0#26 ++ s.rlen.kind ++ s.rlen.len :=
  (regWord_rlen_setWidth s).trans ((setWidth_eq_zeros_append _).trans BitVec.append_assoc')

theorem regWord_dl0 : s.regWord .dl0 = 0#16 ++ s.dl.ctrl ++ s.dl.len :=
  (setWidth_eq_zeros_append _).trans BitVec.append_assoc'

theorem regWord_th : s.regWord .th = 0#24 ++ BitVec.ofBool s.th.fin ++ BitVec.ofBool s.th.fir ++ s.th.seq :=
  (setWidth_eq_zeros_append _).trans (append_fields₃ ..)

theorem regWord_ah : s.regWord .ah = s.ah.iin ++ s.ah.fc ++ BitVec.ofBool s.ah.fir ++ BitVec.ofBool s.ah.fin ++
    BitVec.ofBool s.ah.con ++ BitVec.ofBool s.ah.uns ++ s.ah.seq :=
  append_fields₅ ..

theorem regWord_oh0 : s.regWord .oh0 = 0#8 ++ s.oh.qual ++ s.oh.var ++ s.oh.group :=
  (setWidth_eq_zeros_append _).trans (append_fields₃ ..)

/-- The mapped registers, in the order of R22's table. -/
def Reg.all : List Reg :=
  [.cmd, .status, .errInfo0, .errInfo1, .inLen, .outLen, .inOff, .consumed, .crc, .rlen, .objCount, .dl0, .dl1, .th, .ah,
    .oh0, .ohA, .ohB]

theorem Reg.mem_all (r : Reg) : r ∈ Reg.all := by cases r <;> decide

/-- The register map is each register's offset and word. -/
theorem registerMap_eq : registerMap s = Reg.all.map fun r => (r.offset, r, s.regWord r) := by
  simp only [registerMap, ← half_setWidth, ← regWord_status, ← regWord_rlen, ← regWord_dl0, ← regWord_th, ← regWord_ah,
    ← regWord_oh0]
  rfl

/-- Reserved bits read 0 (10_state.md R23). -/
theorem regWord_and_not_fieldMask (r : Reg) : s.regWord r &&& ~~~ fieldMask r = 0 := by
  cases r with
  | cmd => exact BitVec.zero_and
  | status =>
    have hbits : ∀ (err : Byte) (done busy : Bool),
        (err ++ (0#6 ++ BitVec.ofBool done ++ BitVec.ofBool busy : BitVec 8) : BitVec 16).setWidth 32 &&&
          ~~~ 0x0000FF03#32 = 0 := by decide +kernel
    exact hbits s.err s.done s.busy
  | rlen =>
    rw [regWord_rlen_setWidth]
    exact setWidth_and_not_mask (n := 6) (by decide) _
  | th => exact setWidth_and_not_mask (n := 8) (by decide) _
  | inLen | outLen | inOff | consumed | crc | objCount | dl0 => exact setWidth_and_not_mask (n := 16) (by decide) _
  | oh0 => exact setWidth_and_not_mask (n := 24) (by decide) _
  | errInfo0 | errInfo1 | dl1 | ah | ohA | ohB => exact BitVec.and_zero

end

/-! ### A write to a register -/

/-- The control byte of the fields taken from a byte is that byte (30_encoding.md R60). -/
theorem ahOfFields_control_eq (c fc : Byte) (iin : Half) : (ahOfFields c fc iin).control = c := by
  have hbits : ∀ c : Byte, (ahOfFields c 0 0).control = c := by decide +kernel
  exact hbits c

/-- An RW register reads back what was written with its reserved bits 0 (10_state.md R23). -/
theorem regWord_writeReg_same {r : Reg} (hr : r ∈ rwRegs) (s : State) (v : Word) :
    (s.writeReg r v).regWord r = v &&& fieldMask r := by
  have hones (x : Word) : x &&& 0xFFFFFFFF = x := BitVec.and_allOnes
  cases r with
  | inLen | inOff => exact setWidth_extractLsb'_zero (n := 16) (by decide) v
  | dl0 =>
    calc ((v.extractLsb' 8 8) ++ (v.extractLsb' 0 8)).setWidth 32 = (v.extractLsb' 0 16).setWidth 32 :=
          congrArg (BitVec.setWidth 32) (BitVec.extractLsb'_append_extractLsb'_eq_extractLsb' rfl)
      _ = v &&& 0x0000FFFF := setWidth_extractLsb'_zero (n := 16) (by decide) v
  | dl1 =>
    calc v.extractLsb' 16 16 ++ v.extractLsb' 0 16 = v := BitVec.extractLsb'_append_extractLsb'
      _ = v &&& 0xFFFFFFFF := (hones v).symm
  | th =>
    calc (thOfByte (v.extractLsb' 0 8)).byte.setWidth 32 = (v.extractLsb' 0 8).setWidth 32 := by rw [byte_thOfByte]
      _ = v &&& 0x000000FF := setWidth_extractLsb'_zero (n := 8) (by decide) v
  | ah =>
    have hjoin : v.extractLsb' 16 16 ++ v.extractLsb' 8 8 = v.extractLsb' 8 24 :=
      BitVec.extractLsb'_append_extractLsb'_eq_extractLsb' rfl
    calc v.extractLsb' 16 16 ++ v.extractLsb' 8 8 ++
          (ahOfFields (v.extractLsb' 0 8) (v.extractLsb' 8 8) (v.extractLsb' 16 16)).control
        = v.extractLsb' 8 24 ++ v.extractLsb' 0 8 := by
          rw [ahOfFields_control_eq, hjoin]
      _ = v := BitVec.extractLsb'_append_extractLsb'
      _ = v &&& 0xFFFFFFFF := (hones v).symm
  | oh0 =>
    have hhigh : v.extractLsb' 16 8 ++ v.extractLsb' 8 8 = v.extractLsb' 8 16 :=
      BitVec.extractLsb'_append_extractLsb'_eq_extractLsb' rfl
    have hjoin : v.extractLsb' 8 16 ++ v.extractLsb' 0 8 = v.extractLsb' 0 24 :=
      BitVec.extractLsb'_append_extractLsb'_eq_extractLsb' rfl
    calc (v.extractLsb' 16 8 ++ v.extractLsb' 8 8 ++ v.extractLsb' 0 8).setWidth 32
        = (v.extractLsb' 0 24).setWidth 32 := by rw [hhigh, hjoin]
      _ = v &&& 0x00FFFFFF := setWidth_extractLsb'_zero (n := 24) (by decide) v
  | ohA | ohB => exact (hones v).symm
  | cmd | status | errInfo0 | errInfo1 | outLen | consumed | crc | rlen | objCount => exact absurd hr (by decide)

/-- A write to an RW register changes no other one. -/
theorem regWord_writeReg_ne {r r' : Reg} (hr : r ∈ rwRegs) (h : r' ≠ r) (s : State) (v : Word) :
    (s.writeReg r v).regWord r' = s.regWord r' := by
  cases r with
  | inLen => cases r' with | inLen => exact absurd rfl h | _ => rfl
  | inOff => cases r' with | inOff => exact absurd rfl h | _ => rfl
  | dl0 => cases r' with | dl0 => exact absurd rfl h | _ => rfl
  | dl1 => cases r' with | dl1 => exact absurd rfl h | _ => rfl
  | th => cases r' with | th => exact absurd rfl h | _ => rfl
  | ah => cases r' with | ah => exact absurd rfl h | _ => rfl
  | oh0 => cases r' with | oh0 => exact absurd rfl h | _ => rfl
  | ohA => cases r' with | ohA => exact absurd rfl h | _ => rfl
  | ohB => cases r' with | ohB => exact absurd rfl h | _ => rfl
  | cmd | status | errInfo0 | errInfo1 | outLen | consumed | crc | rlen | objCount => exact absurd hr (by decide)

/-- A write to a register other than CMD keeps the buffers and PEND. -/
theorem writeReg_frame {r : Reg} (hr : r ≠ .cmd) (s : State) (v : Word) : (s.writeReg r v).inBuf = s.inBuf ∧
    (s.writeReg r v).outBuf = s.outBuf ∧ (s.writeReg r v).pend = s.pend := by
  cases r with
  | cmd => exact absurd rfl hr
  | _ => exact ⟨rfl, rfl, rfl⟩

theorem writeReg_ro {r : Reg} (hr : r ∈ roRegs) (s : State) (v : Word) : s.writeReg r v = s := by
  cases r with
  | status | errInfo0 | errInfo1 | outLen | consumed | crc | rlen | objCount => rfl
  | cmd | inLen | inOff | dl0 | dl1 | th | ah | oh0 | ohA | ohB => exact absurd hr (by decide)

theorem ne_cmd_of_mem_rwRegs {r : Reg} (hr : r ∈ rwRegs) : r ≠ .cmd := by
  rintro rfl
  exact absurd hr (by decide)

/-- Settles O55: the register map is the registers' words, and a write stores the fields of its register. -/
theorem registersReadBackWithoutReservedBits : Obligations.RegistersReadBackWithoutReservedBits := by
  intro s v h
  refine ⟨?_, fun r => ?_, fun r hr => ⟨_, hostWrite_reg h r v, regWord_writeReg_same hr s v,
    fun r' hne => regWord_writeReg_ne hr hne s v, writeReg_frame (ne_cmd_of_mem_rwRegs hr) s v⟩,
    fun r hr => ?_, regWord_and_not_fieldMask s⟩
  · rw [registerMap_eq, List.forall_mem_map]
    intro r _
    exact ⟨rfl, rfl, by rw [hostRead_reg (.inl h), observe_of_idle h]⟩
  · rw [registerMap_eq]
    exact ⟨_, List.mem_map_of_mem (Reg.mem_all r), rfl⟩
  · rw [hostWrite_reg h, writeReg_ro hr]

/-! ### The issue of a command, and the step that runs it -/

/-- Settles O56: a write to CMD issues; where the busy interval ends at completion, PEND idle is outside it. -/
theorem commandWriteIssues : Obligations.CommandWriteIssues := by
  intro s v h
  have ha : s.awaiting = false := by
    obtain ha | ⟨hinv, hc, hp⟩ := h
    · exact ha
    · exact Bool.eq_false_iff.2 fun ha => (hinv.awaiting_iff_pending hc).1 ha hp
  have hw : s.hostWrite 0x00 .w32 v = .ok (s.issueCommand v) := hostWrite_reg ha .cmd v
  refine ⟨fun hc => ?_, fun hc => ?_⟩ <;> rw [hw, State.issueCommand, mustPoll, hc]

theorem runWord_of_decodeWord {w : Word} {i : Instr} (h : decodeWord w = .ok i) (s : State) :
    s.runWord w = exec i s := by
  rw [State.runWord, h]

theorem engineTurn_of_pend {w : Word} {i : Instr} (h : decodeWord w = .ok i) (hp : s.pend = some w) :
    s.engineTurn = exec i s := by
  rw [State.engineTurn, hp]
  exact runWord_of_decodeWord h s

theorem step_of_scheduled {e : Event} {rest : List Event} (h : s.env = e :: rest) :
    step s = State.runEvent { s with env := rest } e := by
  rw [step, State.advance, h]

theorem step_of_pending {w : Word} (h : s.env = []) (hp : s.pend = some w) : step s = s.engineTurn := by
  rw [step, State.advance, h]
  exact if_pos (by rw [hp]; rfl)

/-- Settles O4: each of the three turns is the engine's, on the pending word. -/
theorem stepRunsTheDecodedCommand : Obligations.StepRunsTheDecodedCommand := by
  intro s w i hd
  refine ⟨fun henv hp => ?_, fun rest henv hp => ?_, ?_⟩
  · rw [step_of_pending henv hp, engineTurn_of_pend hd hp]
  · rw [step_of_scheduled henv]
    exact engineTurn_of_pend hd hp
  · have hw : BitVec.ofNat 32 (w.toNat % 2 ^ 32) = w := by
      rw [Nat.mod_eq_of_lt w.isLt, BitVec.ofNat_toNat, BitVec.setWidth_eq]
    rw [State.withFetchWord, hw, step_of_scheduled (s := s.withCommandWord w) rfl]
    exact engineTurn_of_pend (s := s.issueCommand w) hd rfl

end Sys2Proof.Machine
end

section
/-! PROOFS. The host's accesses to the two buffers outside the busy interval, and the accesses of the window that are
host faults: where a buffer offset lands, which accesses are allowed, and what an allowed one reads and stores. -/

namespace Sys2Proof.Machine

variable {s : State} {c : Cfg} {m : Memory} {p : Place} {w : Width} {off i j k : Nat}

/-! ### The window map and the width rules -/

/-- An access is allowed exactly at a mapped offset with a width that its place takes. -/
theorem access_eq_ok : access c off w = .ok p ↔ placeOf c off = some p ∧ checkWidth c off w p = .ok () := by
  unfold access
  cases placeOf c off with
  | none => simp
  | some q =>
    cases hq : checkWidth c off w q with
    | error r =>
      simp only [hq, reduceCtorEq, Option.some.injEq, false_iff]
      rintro ⟨rfl, hok⟩
      cases hq.symm.trans hok
    | ok u =>
      simp only [hq, Except.ok.injEq, Option.some.injEq]
      exact ⟨fun h => ⟨h, h ▸ hq⟩, And.left⟩

theorem placeOf_eq_reg {r : Reg} : placeOf c off = some (.reg r) ↔ off / 4 * 4 = r.offset := by
  have hr : r.offset % 4 = 0 ∧ r.offset < 0x100 := by cases r <;> decide
  unfold placeOf
  split_ifs with h <;> simp [regAtOffset_eq_some]
  all_goals omega

theorem placeOf_eq_inBuf : placeOf c off = some (.inBuf i) ↔ off = 0x2000 + i ∧ i < c.inCap ∧ off < 0x4000 := by
  unfold placeOf
  split_ifs <;> simp <;> omega

theorem placeOf_eq_outBuf : placeOf c off = some (.outBuf i) ↔ off = 0x4000 + i ∧ i < c.outCap ∧ off < 0x8000 := by
  unfold placeOf
  split_ifs <;> simp <;> omega

/-- A buffer takes 8 bits anywhere, and aligned 32 bits that do not go past its last byte (20_memory.md R43, R44). -/
theorem checkBuffer_eq_ok {cap : Nat} :
    checkBuffer cap i w = .ok () ↔ w = .w8 ∨ w = .w32 ∧ i % 4 = 0 ∧ i + 3 < cap := by
  cases w <;> simp [checkBuffer]
  split_ifs <;> simp_all

/-- The register block takes 32 bits at a multiple of 4 (20_memory.md R43). -/
theorem checkWidth_reg_eq_ok {r : Reg} : checkWidth c off w (.reg r) = .ok () ↔ w = .w32 ∧ off % 4 = 0 := by
  unfold checkWidth
  split_ifs <;> simp_all

/-- No place takes 16 or 64 bits (20_memory.md R43). -/
theorem width_of_checkWidth_eq_ok (h : checkWidth c off w p = .ok ()) : w = .w8 ∨ w = .w32 := by
  cases p with
  | reg r => exact .inr (checkWidth_reg_eq_ok.1 h).1
  | inBuf i => exact (checkBuffer_eq_ok.1 h).imp_right And.left
  | outBuf i => exact (checkBuffer_eq_ok.1 h).imp_right And.left

/-! ### Disallowed accesses -/

/-- An access that the map and the width rules allow at no place faults, whether it reads or writes. -/
theorem accessFaults_of_not_allowed (h : ∀ p, placeOf s.cfg off = some p → checkWidth s.cfg off w p ≠ .ok ()) :
    s.accessFaults off w := by
  have hacc : ∀ p, access s.cfg off w ≠ .ok p := fun p hp => h p (access_eq_ok.1 hp).1 (access_eq_ok.1 hp).2
  unfold State.accessFaults State.hostRead State.hostWrite
  cases ha : access s.cfg off w with
  | ok p => exact absurd ha (hacc p)
  | error r => exact ⟨⟨r, rfl⟩, fun _ => ⟨r, rfl⟩⟩

/-- The reserved offsets of the window reach no place (20_memory.md R40; 10_state.md R23). -/
theorem placeOf_reserved (h : (0x2C ≤ off ∧ off < 0x30) ∨ (0x4C ≤ off ∧ off < 0x2000) ∨
    (0x2000 + c.inCap ≤ off ∧ off < 0x4000) ∨ (0x4000 + c.outCap ≤ off ∧ off < 0x8000)) (p : Place) :
    placeOf c off ≠ some p := by
  intro hp
  cases p with
  | reg r =>
    have hr : r.offset ≤ 0x48 ∧ r.offset ≠ 0x2C := by cases r <;> decide
    have := placeOf_eq_reg.1 hp
    omega
  | inBuf i =>
    have := placeOf_eq_inBuf.1 hp
    omega
  | outBuf i =>
    have := placeOf_eq_outBuf.1 hp
    omega

/-- The lower 0x100 offsets reach registers only. -/
theorem placeOf_register_block (h : off < 0x100) (hp : placeOf c off = some p) : ∃ r, p = .reg r := by
  cases p with
  | reg r => exact ⟨r, rfl⟩
  | inBuf i =>
    have := placeOf_eq_inBuf.1 hp
    omega
  | outBuf i =>
    have := placeOf_eq_outBuf.1 hp
    omega

theorem placeOf_inBuf (hc : c.inCap ≤ 8192) (hj : j < c.inCap) : placeOf c (0x2000 + j) = some (.inBuf j) :=
  placeOf_eq_inBuf.2 ⟨rfl, hj, by omega⟩

theorem placeOf_outBuf (hc : c.outCap ≤ 16384) (hj : j < c.outCap) : placeOf c (0x4000 + j) = some (.outBuf j) :=
  placeOf_eq_outBuf.2 ⟨rfl, hj, by omega⟩

/-- No write reaches OUT (20_memory.md R44). -/
theorem hostWrite_outBuf (hp : placeOf s.cfg off = some (.outBuf i)) (w : Width) (v : Word) :
    ∃ r, s.hostWrite off w v = .error (.hostFault r off w) := by
  obtain hf | ⟨-, r, hacc, -⟩ | ⟨-, j, hacc, -⟩ := hostWrite_cases s off w v
  · exact hf
  all_goals exact absurd (access_eq_ok.1 hacc).1 (by simp [hp])

/-- A 32-bit access to a buffer that is not aligned or passes the last byte is not allowed (20_memory.md R43, R44). -/
theorem checkBuffer_w32_ne_ok {cap : Nat} (h : j % 4 ≠ 0 ∨ cap ≤ j + 3) : checkBuffer cap j .w32 ≠ .ok () := by
  intro hok
  obtain hw | ⟨-, h4, h3⟩ := checkBuffer_eq_ok.1 hok
  · cases hw
  · omega

/-- Settles O54: at each offset the map names at most one place, and that place does not take the access. -/
theorem disallowedAccessesFault : Obligations.DisallowedAccessesFault := by
  intro s hin hout
  refine ⟨fun off _ => ⟨?_, ?_⟩, fun off w h => ?_, fun off w hoff h => ?_, fun j hj h => ?_, fun j hj h => ?_,
    fun j w v hj => hostWrite_outBuf (placeOf_outBuf hout hj) w v⟩ <;>
    refine accessFaults_of_not_allowed fun p hp hok => ?_
  · simpa using width_of_checkWidth_eq_ok hok
  · simpa using width_of_checkWidth_eq_ok hok
  · exact placeOf_reserved h p hp
  · obtain ⟨r, rfl⟩ := placeOf_register_block hoff hp
    obtain ⟨hw, hal⟩ := checkWidth_reg_eq_ok.1 hok
    exact h.elim (· hw) (· hal)
  · obtain rfl : Place.inBuf j = p := by simpa [placeOf_inBuf hin hj] using hp
    exact checkBuffer_w32_ne_ok h hok
  · obtain rfl : Place.outBuf j = p := by simpa [placeOf_outBuf hout hj] using hp
    exact checkBuffer_w32_ne_ok h hok

/-! ### Reads of a buffer -/

/-- A one-byte read is the byte, zero-extended. -/
theorem readBuffer_one {b : Byte} (h : m.read i = some b) : readBuffer m i 1 = .ok (b.setWidth 32) := by
  have hall : m.readAll i 1 = .ok [b] := Memory.readAll_eq_ok.2 ⟨rfl, by simpa using h⟩
  rw [readBuffer, hall]
  exact congrArg Except.ok (by rw [fromLE, fromLE, Nat.mul_zero, Nat.add_zero, BitVec.ofNat_toNat])

/-- A low byte under a word, as a number. -/
theorem toNat_append_byte {n : Nat} (x : BitVec n) (b : Byte) : (x ++ b).toNat = b.toNat + 256 * x.toNat := by
  rw [BitVec.toNat_append, ← Nat.shiftLeft_add_eq_or_of_lt b.isLt, Nat.shiftLeft_eq]
  omega

/-- Four bytes, least significant first, are the number of their concatenation (20_memory.md R42). -/
theorem fromLE_four (b0 b1 b2 b3 : Byte) : fromLE [b0, b1, b2, b3] = (b3 ++ b2 ++ b1 ++ b0).toNat := by
  simp only [fromLE, toNat_append_byte, Nat.mul_zero, Nat.add_zero]

/-- A four-byte read has the lowest index in the low byte (20_memory.md R42). -/
theorem readBuffer_four {b0 b1 b2 b3 : Byte} (h0 : m.read i = some b0) (h1 : m.read (i + 1) = some b1)
    (h2 : m.read (i + 2) = some b2) (h3 : m.read (i + 3) = some b3) :
    readBuffer m i 4 = .ok (b3 ++ b2 ++ b1 ++ b0) := by
  have hall : m.readAll i 4 = .ok [b0, b1, b2, b3] := by
    simp [Memory.readAll, h0, h1, h2, h3]
  rw [readBuffer, hall]
  exact congrArg Except.ok (by rw [fromLE_four, BitVec.ofNat_toNat, BitVec.setWidth_eq])

/-- A read that covers an unwritten byte faults (20_memory.md R41). -/
theorem readBuffer_unwritten {n : Nat} (hk : k < n) (h : m.read (i + k) = none) :
    readBuffer m i n = .error .unwritten := by
  unfold readBuffer
  cases hall : m.readAll i n with
  | error _ => rfl
  | ok bs =>
    obtain ⟨hlen, hget⟩ := Memory.readAll_eq_ok.1 hall
    have := List.getElem?_eq_none_iff.1 ((hget k hk).symm.trans h)
    omega

/-- A read outside the busy interval returns what its place holds and records it. -/
theorem hostRead_value {v : Word} (hidle : s.awaiting = false) (hacc : access s.cfg off w = .ok p)
    (hv : s.readPlace w p = .ok v) : s.hostRead off w = .ok (v, { s with rdata := some v }) := by
  rw [← observe_of_idle hidle, State.hostRead, hacc]
  simp only [hidle, hv, Bool.false_eq_true, false_and, if_false]

/-- A read outside the busy interval faults where its place has no value. -/
theorem hostRead_fault {r : HostFaultReason} (hidle : s.awaiting = false) (hacc : access s.cfg off w = .ok p)
    (hv : s.readPlace w p = .error r) : s.hostRead off w = .error (.hostFault r off w) := by
  rw [State.hostRead, hacc]
  simp only [hidle, hv, Bool.false_eq_true, false_and, if_false]

/-! ### The accesses a buffer takes -/

theorem access_inBuf_w8 (hc : c.inCap ≤ 8192) (hj : j < c.inCap) : access c (0x2000 + j) .w8 = .ok (.inBuf j) :=
  access_eq_ok.2 ⟨placeOf_inBuf hc hj, rfl⟩

theorem access_inBuf_w32 (hc : c.inCap ≤ 8192) (h4 : j % 4 = 0) (h3 : j + 3 < c.inCap) :
    access c (0x2000 + j) .w32 = .ok (.inBuf j) :=
  access_eq_ok.2 ⟨placeOf_inBuf hc (by omega), checkBuffer_eq_ok.2 (.inr ⟨rfl, h4, h3⟩)⟩

theorem access_outBuf_w8 (hc : c.outCap ≤ 16384) (hj : j < c.outCap) : access c (0x4000 + j) .w8 = .ok (.outBuf j) :=
  access_eq_ok.2 ⟨placeOf_outBuf hc hj, rfl⟩

theorem access_outBuf_w32 (hc : c.outCap ≤ 16384) (h4 : j % 4 = 0) (h3 : j + 3 < c.outCap) :
    access c (0x4000 + j) .w32 = .ok (.outBuf j) :=
  access_eq_ok.2 ⟨placeOf_outBuf hc (by omega), checkBuffer_eq_ok.2 (.inr ⟨rfl, h4, h3⟩)⟩

/-- Settles O52: a read of OUT is a buffer read of the bytes it covers. -/
theorem outputReadsLittleEndian : Obligations.OutputReadsLittleEndian := by
  intro s j hidle hc hj
  have h8 := access_outBuf_w8 hc hj
  refine ⟨fun b hb => hostRead_value hidle h8 (readBuffer_one hb),
    fun hb => hostRead_fault hidle h8 (readBuffer_unwritten (k := 0) Nat.zero_lt_one hb), fun h4 h3 => ?_⟩
  have h32 := access_outBuf_w32 hc h4 h3
  exact ⟨fun b0 b1 b2 b3 h0 h1 h2 h3 => hostRead_value hidle h32 (readBuffer_four h0 h1 h2 h3),
    fun k hk hb => hostRead_fault hidle h32 (readBuffer_unwritten hk hb)⟩

/-! ### Writes of IN -/

/-- A write of the low n bytes of a word stores them least significant first (20_memory.md R41, R42). -/
theorem read_writeAll_take_le32 {n : Nat} (hn : n ≤ 4) (m : Memory) (i : Nat) (v : Word) (k : Nat) :
    (m.writeAll i ((le32 v).take n)).read k =
      if i ≤ k ∧ k < i + n then some (v.extractLsb' (8 * (k - i)) 8) else m.read k := by
  have hlen : ((le32 v).take n).length = n := by simp [le32]; omega
  rw [Memory.read_writeAll, hlen]
  split_ifs with h
  · have hd : k - i < n := by omega
    rw [le32_eq_wireLe, List.getElem?_take_of_lt hd, wireLe, List.getElem?_map,
      List.getElem?_range (hd.trans_le hn), Option.map_some]
  · rfl

/-- An allowed write to IN outside the busy interval stores the low bytes of its value, as many as it covers. -/
theorem hostWrite_inBuf (hidle : s.awaiting = false) (hacc : access s.cfg off w = .ok (.inBuf i)) (v : Word) :
    s.hostWrite off w v = .ok { s with inBuf := s.inBuf.writeAll i ((le32 v).take w.bytes) } := by
  rw [State.hostWrite, hacc]
  exact if_neg (by simp [hidle])

/-- Settles O51: a write stores the low bytes of its value and a read is a buffer read of the bytes it covers. -/
theorem hostReachesInput : Obligations.HostReachesInput := by
  intro s j v hidle hc hj
  have h8 := access_inBuf_w8 hc hj
  refine ⟨⟨_, hostWrite_inBuf hidle h8 v, rfl, fun k => ?_⟩,
    fun b hb => hostRead_value hidle h8 (readBuffer_one hb),
    fun hb => hostRead_fault hidle h8 (readBuffer_unwritten (k := 0) Nat.zero_lt_one hb), fun h4 h3 => ?_⟩
  · refine (read_writeAll_take_le32 (n := 1) (by omega) s.inBuf j v k).trans ?_
    by_cases hk : k = j
    · simp [hk]
    · rw [if_neg hk, if_neg (by omega)]
  have h32 := access_inBuf_w32 hc h4 h3
  exact ⟨⟨_, hostWrite_inBuf hidle h32 v, rfl, read_writeAll_take_le32 le_rfl s.inBuf j v⟩,
    fun b0 b1 b2 b3 h0 h1 h2 h3 => hostRead_value hidle h32 (readBuffer_four h0 h1 h2 h3),
    fun k hk hb => hostRead_fault hidle h32 (readBuffer_unwritten hk hb)⟩

end Sys2Proof.Machine
end

section
/-! PROOFS. The encoding (30_encoding.md): the opcode map and the command word in both directions, the words that are no
command, and the IEEE 1815 qualifier table. -/

namespace Sys2Proof.Machine

variable {s : State} {i : Instr} {w : Word}

/-! ### The command word -/

/-- The opcode map in both directions (R72). -/
theorem opcodeInstr_eq_some {op : Byte} : opcodeInstr op = some i ↔ op = opcodeOf i := by
  constructor
  · intro h
    unfold opcodeInstr at h
    split at h <;> cases h <;> exact BitVec.eq_of_toNat_eq (by assumption)
  · rintro rfl
    cases i <;> rfl

/-- A command word is an opcode below 24 zero bits (R71). -/
theorem eq_encode_iff : w = encode i ↔ w.extractLsb' 8 24 = 0 ∧ w.setWidth 8 = opcodeOf i := by
  have hencode : encode i = 0#24 ++ opcodeOf i := setWidth_eq_zeros_append _
  have hlow : w.setWidth 8 = w.extractLsb' 0 8 := BitVec.setWidth_eq_extractLsb' (by decide)
  constructor
  · rintro rfl
    cases i <;> exact ⟨rfl, rfl⟩
  · rintro ⟨hhigh, hop⟩
    have hjoin : w.extractLsb' 8 24 ++ w.extractLsb' 0 8 = w := BitVec.extractLsb'_append_extractLsb'
    rw [hhigh, ← hlow, hop] at hjoin
    exact hjoin.symm.trans hencode.symm

theorem decodeWord_eq_ok : decodeWord w = .ok i ↔ w = encode i := by
  rw [eq_encode_iff, ← opcodeInstr_eq_some]
  unfold decodeWord
  split_ifs with hhigh
  · cases opcodeInstr (w.setWidth 8) <;> simp [hhigh]
  · exact iff_of_false nofun fun h => hhigh h.1

theorem decodeWord_encode (i : Instr) : decodeWord (encode i) = .ok i := decodeWord_eq_ok.2 rfl

/-- A word is the concatenation of its window bytes (20_memory.md R42). -/
theorem append_bytes_of_word (w : Word) :
    w.extractLsb' 24 8 ++ w.extractLsb' 16 8 ++ w.extractLsb' 8 8 ++ w.extractLsb' 0 8 = w := by
  have h16 : w.extractLsb' 24 8 ++ w.extractLsb' 16 8 = w.extractLsb' 16 16 :=
    BitVec.extractLsb'_append_extractLsb'_eq_extractLsb' rfl
  have h24 : w.extractLsb' 16 16 ++ w.extractLsb' 8 8 = w.extractLsb' 8 24 :=
    BitVec.extractLsb'_append_extractLsb'_eq_extractLsb' rfl
  rw [h16, h24]
  exact BitVec.extractLsb'_append_extractLsb'

/-- The bytes of a command's word decode to it and leave the bytes after them. -/
theorem decodeBytes_bytesOfWord (h : decodeWord w = .ok i) (rest : List Byte) :
    decodeBytes (bytesOfWord w ++ rest) = .ok (i, rest) := by
  have hw : decodeWord (wordOfBytes (w.extractLsb' 0 8) (w.extractLsb' 8 8) (w.extractLsb' 16 8) (w.extractLsb' 24 8)) =
      .ok i := by rw [wordOfBytes, append_bytes_of_word, h]
  simp only [bytesOfWord, List.cons_append, List.nil_append, decodeBytes, hw]

/-- Settles O1: a word is an opcode below zeros, and the opcode map is one-to-one. -/
theorem wordDecodesIffItIsTheCommandsWord : Obligations.WordDecodesIffItIsTheCommandsWord :=
  ⟨fun _ _ => decodeWord_eq_ok, fun i rest => decodeBytes_bytesOfWord (decodeWord_encode i) rest⟩

theorem decodeTableWord_encode (i : Instr) : decodeTableWord 32 (encode i).toNat = some i := by
  have hlt := (encode i).isLt
  have hbytes := decodeBytes_bytesOfWord (decodeWord_encode i) []
  rw [List.append_nil] at hbytes
  rw [decodeTableWord, Nat.mod_eq_of_lt hlt, if_pos hlt, BitVec.ofNat_toNat, BitVec.setWidth_eq, hbytes]

/-- Settles O2: each row is its command's word. -/
theorem opcodeTableRowsDecode : Obligations.OpcodeTableRowsDecode :=
  ⟨decodeTableWord_encode .crc16, decodeTableWord_encode .addCrc, decodeTableWord_encode .stripCrc,
    decodeTableWord_encode .packDl, decodeTableWord_encode .unpackDl, decodeTableWord_encode .packTh,
    decodeTableWord_encode .unpackTh, decodeTableWord_encode .packAh, decodeTableWord_encode .unpackAh,
    decodeTableWord_encode .packOh, decodeTableWord_encode .unpackOh, decodeTableWord_encode .rangeLen,
    decodeTableWord_encode .buildRead, decodeTableWord_encode .parseFrame⟩

/-! ### Words that are no command -/

/-- The rows of the opcode map lie in three ranges (R72). -/
theorem opcodeOf_ranges (i : Instr) : (0x01 ≤ (opcodeOf i).toNat ∧ (opcodeOf i).toNat ≤ 0x03) ∨
    (0x10 ≤ (opcodeOf i).toNat ∧ (opcodeOf i).toNat ≤ 0x18) ∨
    (0x20 ≤ (opcodeOf i).toNat ∧ (opcodeOf i).toNat ≤ 0x21) := by
  cases i <;> decide

/-- A pending word that decodes to nothing completes with ILLEGAL_COMMAND (60_exceptions.md R136). -/
theorem engineTurn_of_illegal (h : ∀ i, decodeWord w ≠ .ok i) (hp : s.pend = some w) :
    s.engineTurn = .next (s.failed 0x08 w 0) := by
  rw [State.engineTurn, hp]
  dsimp only
  rw [State.runWord]
  cases hd : decodeWord w with
  | ok i => exact absurd hd (h i)
  | error e => rfl

/-- Settles O3: the listed words are no command's word, so the engine's turn, by either order, completes with the error. -/
theorem illegalWordCompletesWithIllegalCommand : Obligations.IllegalWordCompletesWithIllegalCommand := by
  intro s w hp hillegal
  have hnone : ∀ i, decodeWord w ≠ .ok i := by
    intro i hd
    obtain ⟨hhigh, hop⟩ := eq_encode_iff.1 (decodeWord_eq_ok.1 hd)
    have hranges := opcodeOf_ranges i
    rw [hop] at hillegal
    obtain h | h := hillegal
    · exact h hhigh
    · omega
  refine ⟨hnone, fun rest henv => ?_, fun henv => ?_⟩
  · rw [step_of_scheduled henv]
    exact engineTurn_of_illegal hnone hp
  · rw [step_of_pending henv hp, engineTurn_of_illegal hnone hp]

/-! ### RANGE_LEN and the IEEE 1815 table -/

theorem exec_rangeLen_of_some {k : RangeKind} {rl : Nat} (h : rangeLen s.cfg s.oh.qual = some (k, rl)) :
    exec .rangeLen s = .next (s.setRlen (rangeReg k rl)).succeed :=
  exec_of_body_ok (body_rangeLen_ok.2 ⟨k, rl, h, rfl⟩)

theorem exec_rangeLen_of_none (h : rangeLen s.cfg s.oh.qual = none) :
    exec .rangeLen s = .next (s.raiseError (.unsupportedQualifier 0 s.oh.qual)) := by
  refine exec_of_body_raise ?_
  rw [body, rangeLenAt_eq_error.2 ⟨h, rfl⟩, raises_error, error_bind]

/-- The upper four bits of a qualifier do not matter under STD (R67). -/
theorem rangeLenStd_and_mask (q : Byte) : rangeLenStd (q &&& 0x0F) = rangeLenStd q := by
  rw [rangeLenStd, rangeLenStd, BitVec.and_assoc, BitVec.and_self]

/-- The eleven codes of the IEEE 1815 table with their length and kind (R67). -/
theorem rangeLenStd_rows : ∀ e ∈ [((0x00 : Byte), 2, (1 : BitVec 2)), (0x01, 4, 1), (0x02, 8, 1), (0x03, 2, 1),
    (0x04, 4, 1), (0x05, 8, 1), (0x06, 0, 0), (0x07, 1, 2), (0x08, 2, 2), (0x09, 4, 2), (0x0B, 1, 2)],
    (rangeLenStd e.1).map (fun p => (p.2, p.1.code)) = some e.2 := by
  decide

theorem rangeLenStd_reserved : ∀ r ∈ [(0x0A : Byte), 0x0C, 0x0D, 0x0E, 0x0F], rangeLenStd r = none := by
  decide

/-- Settles O20: the table is read at the qualifier's low four bits, code by code. -/
theorem stdQualifierTable : Obligations.StdQualifierTable := by
  intro s hstd
  have hlow : rangeLen s.cfg s.oh.qual = rangeLenStd (s.oh.qual &&& 0x0F) := by
    rw [rangeLen, hstd, rangeLenStd_and_mask]
  refine ⟨fun r rl kind hrow hr => ?_, fun hr => ?_⟩
  · obtain ⟨⟨k, n⟩, hlen, hpair⟩ := Option.map_eq_some_iff.1 (rangeLenStd_rows _ hrow)
    obtain ⟨rfl, rfl⟩ := Prod.mk.inj hpair
    rw [exec_rangeLen_of_some (hlow.trans (hr ▸ hlen))]
    rfl
  · rw [exec_rangeLen_of_none (hlow.trans (rangeLenStd_reserved _ hr))]
    rfl

end Sys2Proof.Machine
end

section
/-! PROOFS. The host agent (30_encoding.md R75, R76): when its turn comes, what each kind of statement does, bus accesses by
address, and the run of the `exec` pseudo-instruction. -/

namespace Sys2Proof.Machine

variable {s t : State} {i : Instr} {st : HostStmt} {off : Nat} {w : Width} {v : Word} {r : Fin 8} {f : Fault}

/-! ### The host's turn -/

theorem hostTurn_of_stmt (hh : s.host.halted = false) (hst : s.host.prog[s.host.pc]? = some st) :
    s.hostTurn = s.hostStmt st := by
  rw [State.hostTurn, hh, hst]
  rfl

/-- A halted host, and one past the end of its program, does nothing. -/
theorem hostTurn_of_ended (h : s.host.halted = true ∨ s.host.prog.length ≤ s.host.pc) : s.hostTurn = .next s := by
  unfold State.hostTurn
  split_ifs with hh
  · rfl
  · rw [List.getElem?_eq_none (h.resolve_left hh)]

/-- With nothing scheduled and no command pending the turn is the host's. -/
theorem step_of_idle (henv : s.env = []) (hp : s.pend = none) : step s = s.hostTurn := by
  rw [step, State.advance, henv]
  exact if_neg (by simp [hp])

theorem step_of_stmt (henv : s.env = []) (hp : s.pend = none) (hh : s.host.halted = false)
    (hst : s.host.prog[s.host.pc]? = some st) : step s = s.hostStmt st := by
  rw [step_of_idle henv hp, hostTurn_of_stmt hh hst]

/-! ### Bus accesses -/

/-- WINDOW_BASE plus an offset of the window is that offset (20_memory.md R38). -/
theorem windowOffset_add {c : Cfg} (h : off < 0x8000) : windowOffset c (c.windowBase + off) = some off := by
  rw [windowOffset, if_pos (by omega), Nat.add_sub_cancel_left]

theorem busAccess_read (h : off < 0x8000) :
    (∀ v t, s.hostRead off w = .ok (v, t) → s.busAccess (s.cfg.windowBase + off) w .read = .next t) ∧
    (∀ f, s.hostRead off w = .error f → s.busAccess (s.cfg.windowBase + off) w .read = .fault f) := by
  constructor <;> intros <;> simp only [State.busAccess, windowOffset_add h, *]

theorem busAccess_write (h : off < 0x8000) :
    (∀ t, s.hostWrite off w v = .ok t → s.busAccess (s.cfg.windowBase + off) w (.write v) = .next t) ∧
    (∀ f, s.hostWrite off w v = .error f → s.busAccess (s.cfg.windowBase + off) w (.write v) = .fault f) := by
  constructor <;> intros <;> simp only [State.busAccess, windowOffset_add h, *]

/-! ### Stores and loads -/

theorem hostStore_ok (h : s.hostWrite off w v = .ok t) :
    s.hostStore off w v = .next { t with host := { s.host with pc := s.host.pc + 1 } } := by
  obtain ⟨-, hhost, -, -⟩ := hostWrite_frame h
  simp only [State.hostStore, h, hhost, HostAgent.advance]

theorem hostStore_error (h : s.hostWrite off w v = .error f) : s.hostStore off w v = .fault f := by
  rw [State.hostStore, h]

theorem hostLoad_ok (h : s.hostRead off w = .ok (v, t)) : s.hostLoad r off w =
    .next { t with host := { s.host with regs := s.host.regs.set r v, pc := s.host.pc + 1 } } := by
  have hhost : t.host = s.host := by rw [hostRead_frame h]
  simp only [State.hostLoad, h, hhost, HostAgent.set]

theorem hostLoad_error (h : s.hostRead off w = .error f) : s.hostLoad r off w = .fault f := by
  rw [State.hostLoad, h]

/-! ### Arithmetic -/

/-- 32-bit addition wraps (R75). -/
theorem add_eq_ofNat_mod (x y : Word) : x + y = BitVec.ofNat 32 ((x.toNat + y.toNat) % 2 ^ 32) := by
  apply BitVec.eq_of_toNat_eq
  rw [BitVec.toNat_add, BitVec.toNat_ofNat, Nat.mod_mod]

/-- A shift divides by a power of two, and so gives 0 from 32 on. -/
theorem ushiftRight_eq_ofNat_div (x : Word) (n : Nat) : x >>> n = BitVec.ofNat 32 (x.toNat / 2 ^ n) := by
  apply BitVec.eq_of_toNat_eq
  rw [BitVec.toNat_ushiftRight, BitVec.toNat_ofNat, Nat.shiftRight_eq_div_pow,
    Nat.mod_eq_of_lt ((Nat.div_le_self _ _).trans_lt x.isLt)]

theorem hostStmt_arith (s : State) (r m : Fin 8) (x : HostVal) :
    s.hostStmt (.add r m x) = .next { s with host := { s.host with
      regs := s.host.regs.set r (BitVec.ofNat 32 ((s.host.regs[m].toNat + (s.host.val x).toNat) % 2 ^ 32)),
      pc := s.host.pc + 1 } } ∧
    s.hostStmt (.and r m x) = .next { s with host := { s.host with
      regs := s.host.regs.set r (s.host.regs[m] &&& s.host.val x), pc := s.host.pc + 1 } } ∧
    s.hostStmt (.shr r m x) = .next { s with host := { s.host with
      regs := s.host.regs.set r (BitVec.ofNat 32 (s.host.regs[m].toNat / 2 ^ (s.host.val x).toNat)),
      pc := s.host.pc + 1 } } := by
  rw [← add_eq_ofNat_mod, ← ushiftRight_eq_ofNat_div]
  exact ⟨rfl, rfl, rfl⟩

/-! ### Branches -/

theorem hostStmt_beq (s : State) (r : Fin 8) (x : HostVal) (label : Nat) : s.hostStmt (.beq r x label) =
    .next { s with host := s.host.branch (s.host.regs[r] == s.host.val x) label } := rfl

theorem hostStmt_bne (s : State) (r : Fin 8) (x : HostVal) (label : Nat) : s.hostStmt (.bne r x label) =
    .next { s with host := s.host.branch (s.host.regs[r] != s.host.val x) label } := rfl

theorem hostStmt_branch_eq {x : HostVal} (h : s.host.regs[r] = s.host.val x) (label : Nat) :
    s.hostStmt (.beq r x label) = .next { s with host := { s.host with pc := label } } ∧
    s.hostStmt (.bne r x label) = .next { s with host := { s.host with pc := s.host.pc + 1 } } := by
  rw [hostStmt_beq, hostStmt_bne, beq_iff_eq.2 h, bne_eq_false_iff_eq.2 h]
  exact ⟨rfl, rfl⟩

theorem hostStmt_branch_ne {x : HostVal} (h : s.host.regs[r] ≠ s.host.val x) (label : Nat) :
    s.hostStmt (.bne r x label) = .next { s with host := { s.host with pc := label } } ∧
    s.hostStmt (.beq r x label) = .next { s with host := { s.host with pc := s.host.pc + 1 } } := by
  rw [hostStmt_beq, hostStmt_bne, beq_eq_false_iff_ne.2 h, bne_iff_ne.2 h]
  exact ⟨rfl, rfl⟩

/-- Settles O60: the turn is the host's and its statement runs; each statement by its own rule. -/
theorem hostStatementsRun : Obligations.HostStatementsRun := by
  intro s
  refine ⟨⟨fun st => step_of_stmt, fun st rest henv hh hst => ?_, fun rest henv hend => ?_⟩,
    fun off w rest hoff henv => ?_, fun off w v rest hoff henv => ?_, fun v h => ⟨rfl, rfl⟩,
    fun n r x => ⟨rfl, rfl, rfl, rfl⟩,
    fun off x => ⟨fun t => hostStore_ok, fun f => hostStore_error, fun t => hostStore_ok, fun f => hostStore_error⟩,
    fun h off => ⟨fun v t => hostLoad_ok, fun f => hostLoad_error, fun v t => hostLoad_ok, fun f => hostLoad_error⟩,
    hostStmt_arith s,
    fun h x label => ⟨fun he => hostStmt_branch_eq he label, fun hne => hostStmt_branch_ne hne label, rfl⟩, rfl⟩
  · rw [step_of_scheduled henv]
    exact hostTurn_of_stmt hh hst
  · rw [step_of_scheduled henv]
    exact hostTurn_of_ended hend
  · rw [step_of_scheduled henv]
    exact busAccess_read hoff
  · rw [step_of_scheduled henv]
    exact busAccess_write hoff

/-! ### The `exec` pseudo-instruction -/

/-- The host and the schedule are no command's results. -/
theorem undoResults_agents (i : Instr) (s t : State) :
    (undoResults i s t).host = t.host ∧ (undoResults i s t).env = t.env := by
  cases i <;> exact ⟨rfl, rfl⟩

/-- A command leaves the host and the schedule. -/
theorem exec_agents (h : exec i s = .next t) : t.host = s.host ∧ t.env = s.env := by
  have hu := undoResults_agents i s t
  rw [commandsWriteOnlyTheirResults i s t h] at hu
  exact ⟨hu.1.symm, hu.2.symm⟩

/-- A completed command is no longer pending, and BUSY = 0 (10_state.md R32). -/
theorem exec_completes (h : exec i s = .next t) : t.pend = none ∧ t.busy = false := by
  obtain ⟨u, -, rfl⟩ | ⟨e, -, rfl⟩ := exec_next h <;> exact ⟨rfl, rfl⟩

/-- BUSY is bit 0 of STATUS (10_state.md R26). -/
theorem statusWord_and_one (h : s.busy = false) : s.statusWord &&& 1 = 0 := by
  have hbit : s.statusWord.getLsbD 0 = s.busy := by
    rw [show s.statusWord = _ from regWord_status s, BitVec.getLsbD_append]
    simp
  rw [show (1 : Word) = 1#32 from rfl, BitVec.and_one_eq_setWidth_ofBool_getLsbD, hbit, h]
  rfl

/-- With BUSY = 0 a read that returns a value of the engine ends the poll (70_reset_and_hazards.md R154). -/
theorem observe_of_completed (h : s.busy = false) (v : Word) :
    s.observe v = { s with rdata := some v, polling := false } := by
  rw [State.observe, h, Bool.and_false]

theorem run_succ {M : Host.Core} {k : Nat} {a b : M.State} (h : M.step a = .next b) : M.run (k + 1) a = M.run k b := by
  rw [Host.Core.run, h]

/-- A state with another host agent. -/
def State.withHost (s : State) (h : HostAgent) : State := { s with host := h }

/-- A register that is set twice holds the later value. -/
theorem HostAgent.set_set (h : HostAgent) (r : Fin 8) (v v' : Word) :
    (h.set r v).set r v' = { h with regs := h.regs.set r v', pc := h.pc + 2 } := by
  simp [HostAgent.set]

theorem HostAgent.set_regs_self (h : HostAgent) (r : Fin 8) (v : Word) : (h.set r v).regs[r] = v := by
  simp [HostAgent.set]

/-- The last three statements of R76's `exec` with STATUS.BUSY = 0: the read ends the busy interval, the mask leaves 0 in h7
and the branch falls through. -/
theorem run_poll {label : Nat} (henv : t.env = []) (hp : t.pend = none) (hbusy : t.busy = false)
    (hh : t.host.halted = false) (hread : t.host.prog[t.host.pc]? = some (.rd32 7 (.reg .status)))
    (hmask : t.host.prog[t.host.pc + 1]? = some (.and 7 7 (.imm 1)))
    (hbranch : t.host.prog[t.host.pc + 2]? = some (.bne 7 (.imm 0) label)) :
    Host.Core.run Sys2Proof.core 3 t = .next { t with
      host := { t.host with regs := t.host.regs.set 7 0, pc := t.host.pc + 3 }, rdata := some t.statusWord,
      polling := false } := by
  let u := { t with rdata := some t.statusWord, polling := false }
  let a := t.host.set 7 t.statusWord
  let b := a.set 7 0
  have hstatus : t.hostRead Reg.status.offset .w32 = .ok (t.statusWord, u) := by
    rw [show u = t.observe t.statusWord from (observe_of_completed hbusy _).symm]
    exact hostRead_reg (r := .status) (.inr rfl)
  have hload : step t = .next (u.withHost a) := (step_of_stmt henv hp hh hread).trans (hostLoad_ok hstatus)
  have hzero : a.regs[(7 : Fin 8)] &&& 1 = 0 := by
    rw [HostAgent.set_regs_self]
    exact statusWord_and_one hbusy
  have hand : step (u.withHost a) = .next (u.withHost b) := by
    have hmasked : step (u.withHost a) = .next (u.withHost (a.set 7 (a.regs[(7 : Fin 8)] &&& 1))) :=
      step_of_stmt (s := u.withHost a) henv hp hh hmask
    rw [hzero] at hmasked
    exact hmasked
  have hbne : step (u.withHost b) = .next (u.withHost { b with pc := b.pc + 1 }) :=
    (step_of_stmt (s := u.withHost b) henv hp hh hbranch).trans
      (hostStmt_branch_eq (HostAgent.set_regs_self a 7 0) label).2
  have hb : b = { t.host with regs := t.host.regs.set 7 0, pc := t.host.pc + 2 } := HostAgent.set_set ..
  rw [run_succ (M := Sys2Proof.core) hload, run_succ (M := Sys2Proof.core) hand, run_succ (M := Sys2Proof.core) hbne, hb]
  rfl

/-- Settles O59: the write issues the command, the engine's turn runs it, and the poll ends. -/
theorem execPseudoInstructionRunsTheCommand : Obligations.ExecPseudoInstructionRunsTheCommand := by
  intro s t i henv hidle hp hh hprog hexec
  let u := (s.issueCommand (encode i)).withHost s.host.advance
  obtain ⟨hhost, htenv⟩ : t.host = s.host.advance ∧ t.env = s.env := exec_agents hexec
  obtain ⟨htp, htbusy⟩ := exec_completes hexec
  have hwrite : step s = .next u :=
    (step_of_stmt henv hp hh (hprog 0 (by decide))).trans (hostStore_ok (hostWrite_reg hidle .cmd (encode i)))
  have hengine : step u = .next t :=
    (step_of_pending (s := u) henv rfl).trans ((engineTurn_of_pend (decodeWord_encode i) rfl).trans hexec)
  have hpoll := run_poll (t := t) (label := s.host.pc + 1) (htenv.trans henv) htp htbusy (by rw [hhost]; exact hh)
    (by rw [hhost]; exact hprog 1 (by decide)) (by rw [hhost]; exact hprog 2 (by decide))
    (by rw [hhost]; exact hprog 3 (by decide))
  rw [run_succ (M := Sys2Proof.core) hwrite, run_succ (M := Sys2Proof.core) hengine, hpoll, hhost]
  rfl

end Sys2Proof.Machine
end

section
/-! PROOFS. The arithmetic of the CRC (40_crc.md R80, R81, R86, R87): CrcUpdate is linear, the value of one bit, and a
difference of two accumulators that the shift register never loses. -/

namespace Sys2Proof.Machine

/-! ### The shift register is linear -/

theorem crcShift_of_even {poly acc : Half} (h : acc.getLsbD 0 = false) : crcShift poly acc = acc >>> 1 := by
  rw [crcShift, h]
  exact if_neg (by decide)

theorem crcShift_of_odd {poly acc : Half} (h : acc.getLsbD 0 = true) : crcShift poly acc = (acc >>> 1) ^^^ poly :=
  if_pos h

theorem crcShift_xor (poly a b : Half) : crcShift poly (a ^^^ b) = crcShift poly a ^^^ crcShift poly b := by
  have hshift (acc : Half) : crcShift poly acc = acc >>> 1 ^^^ (if acc.getLsbD 0 then poly else 0) := by
    cases h : acc.getLsbD 0 with
    | false => rw [crcShift_of_even h]; simp
    | true => exact crcShift_of_odd h
  have hfeedback (x y : Bool) : (if x ^^ y then poly else 0) = (if x then poly else 0) ^^^ (if y then poly else 0) := by
    cases x <;> cases y <;> simp
  rw [hshift, hshift, hshift, BitVec.ushiftRight_xor_distrib, BitVec.getLsbD_xor, hfeedback]
  ac_rfl

theorem crcShifts_xor (poly : Half) (n : Nat) (a b : Half) :
    crcShifts poly n (a ^^^ b) = crcShifts poly n a ^^^ crcShifts poly n b := by
  induction n generalizing a b with
  | zero => rfl
  | succ n ih => rw [crcShifts, crcShift_xor, ih]; rfl

theorem crcShifts_eq_iterate (poly : Half) (n : Nat) (acc : Half) : crcShifts poly n acc = (crcShift poly)^[n] acc := by
  induction n generalizing acc with
  | zero => rfl
  | succ n ih => rw [crcShifts, ih, Function.iterate_succ_apply]

theorem crcShifts_add (poly : Half) (m n : Nat) (acc : Half) :
    crcShifts poly (m + n) acc = crcShifts poly n (crcShifts poly m acc) := by
  simp only [crcShifts_eq_iterate, ← Function.iterate_add_apply, Nat.add_comm]

/-- CrcUpdate is linear in the accumulator and the byte together. -/
theorem crcUpdate_xor (poly a a' : Half) (b b' : Byte) :
    crcUpdate poly (a ^^^ a') (b ^^^ b') = crcUpdate poly a b ^^^ crcUpdate poly a' b' := by
  rw [crcUpdate, crcUpdate, crcUpdate, ← crcShifts_xor, BitVec.setWidth_xor]
  congr 1
  ac_rfl

/-- Linearity along two strings of one length. -/
theorem foldl_crcUpdate_zipWith (poly : Half) (a b : List Byte) (h : a.length = b.length) (x y : Half) :
    (List.zipWith (· ^^^ ·) a b).foldl (crcUpdate poly) (x ^^^ y) =
      a.foldl (crcUpdate poly) x ^^^ b.foldl (crcUpdate poly) y := by
  induction a generalizing b x y with
  | nil => obtain rfl := List.length_eq_zero_iff.1 h.symm; rfl
  | cons u a ih =>
    cases b with
    | nil => cases h
    | cons v b =>
      rw [List.zipWith_cons_cons, List.foldl_cons, crcUpdate_xor, ih b (by simpa using h)]
      rfl

/-! ### What becomes of one bit -/

/-- Bit k is shifted out by the shift number k + 1, which leaves P_POLY. -/
theorem crcShifts_bit (poly : Half) (k : Nat) (hk : k < 16) : crcShifts poly (k + 1) (1#16 <<< k) = poly := by
  induction k with
  | zero => simp [crcShifts, crcShift]
  | succ k ih =>
    have heven : (1#16 <<< (k + 1)).getLsbD 0 = false := by simp
    have hshift : ∀ k : Fin 15, (1#16 <<< (k.val + 1)) >>> 1 = 1#16 <<< k.val := by decide
    rw [crcShifts, crcShift_of_even heven, hshift ⟨k, by omega⟩, ih (by omega)]

/-- A difference of two accumulators as the shifts after P_POLY leave it: not 0, and no longer than P_POLY. -/
def Lasting (poly d : Half) : Prop := d ≠ 0 ∧ d.toNat < 2 ^ (poly.toNat.log2 + 1)

theorem lasting_poly {poly : Half} (h : poly ≠ 0) : Lasting poly poly := ⟨h, Nat.lt_log2_self⟩

/-- A shift keeps such a difference: half of an odd one is below P_POLY's highest bit, so that the XOR is not 0. -/
theorem Lasting.crcShift {poly d : Half} (hp : poly ≠ 0) (h : Lasting poly d) : Lasting poly (crcShift poly d) := by
  obtain ⟨hd, hlt⟩ := h
  have hpos : d.toNat ≠ 0 := fun h0 => hd (BitVec.eq_of_toNat_eq h0)
  have hhalf : (d >>> 1).toNat = d.toNat / 2 := by simp [Nat.shiftRight_eq_div_pow]
  have htop : 2 ^ poly.toNat.log2 ≤ poly.toNat := Nat.log2_self_le fun h0 => hp (BitVec.eq_of_toNat_eq h0)
  have hpow : 2 ^ (poly.toNat.log2 + 1) = 2 * 2 ^ poly.toNat.log2 := by rw [Nat.pow_succ, Nat.mul_comm]
  cases hbit : d.getLsbD 0 with
  | false =>
    have heven : d.toNat % 2 = 0 := by simpa [BitVec.getLsbD] using hbit
    rw [crcShift_of_even hbit]
    refine ⟨fun h0 => ?_, by omega⟩
    have : (d >>> 1).toNat = 0 := by rw [h0]; rfl
    omega
  | true =>
    rw [crcShift_of_odd hbit]
    refine ⟨fun h0 => ?_, ?_⟩
    · have : (d >>> 1).toNat = poly.toNat := by rw [BitVec.xor_eq_zero_iff.1 h0]
      omega
    · rw [BitVec.toNat_xor]
      exact Nat.xor_lt_two_pow (by omega) Nat.lt_log2_self

theorem Lasting.crcShifts {poly d : Half} (hp : poly ≠ 0) (h : Lasting poly d) (n : Nat) :
    Lasting poly (crcShifts poly n d) := by
  induction n generalizing d with
  | zero => exact h
  | succ n ih => exact ih (h.crcShift hp)

/-- A bit of a byte is shifted out among the byte's 8 shifts. -/
theorem lasting_of_bit {poly : Half} (hp : poly ≠ 0) (k : Fin 8) :
    Lasting poly (crcShifts poly 8 (1#16 <<< k.val)) := by
  have hout : crcShifts poly 8 (1#16 <<< k.val) = crcShifts poly (7 - k.val) poly := by
    have h := crcShifts_add poly (k.val + 1) (7 - k.val) (1#16 <<< k.val)
    rwa [crcShifts_bit poly k (by omega), show k.val + 1 + (7 - k.val) = 8 by omega] at h
  exact hout ▸ (lasting_poly hp).crcShifts hp _

/-- Two accumulators that differ lastingly still do after the same bytes. -/
theorem lasting_foldl {poly : Half} (hp : poly ≠ 0) (s : List Byte) {a a' : Half} (h : Lasting poly (a ^^^ a')) :
    Lasting poly (s.foldl (crcUpdate poly) a ^^^ s.foldl (crcUpdate poly) a') := by
  induction s generalizing a a' with
  | nil => exact h
  | cons b s ih =>
    refine ih ?_
    rw [← crcUpdate_xor, BitVec.xor_self, crcUpdate]
    simpa using h.crcShifts hp 8

/-! ### The checksum -/

/-- R86: one flipped bit changes the checksum, whatever P_XOROUT, of a string of any length. -/
theorem crc16_flipBit_ne {cfg : Cfg} (hp : cfg.poly ≠ 0) {f : List Byte} {j : Nat} (hj : j < f.length) (k : Fin 8) :
    crc16 cfg (flipBit f j k) ≠ crc16 cfg f := by
  obtain ⟨pre, b, post, rfl, -, hflip⟩ := List.exists_of_modify (fun b : Byte => b ^^^ (1#8 <<< k.val)) hj
  let a := pre.foldl (crcUpdate cfg.poly) 0x0000
  have hbit : crcUpdate cfg.poly a (b ^^^ (1#8 <<< k.val)) ^^^ crcUpdate cfg.poly a b =
      crcShifts cfg.poly 8 (1#16 <<< k.val) := by
    have hb : b ^^^ (1#8 <<< k.val) ^^^ b = 1#8 <<< k.val := by rw [BitVec.xor_comm, ← BitVec.xor_assoc]; simp
    have hw : ∀ k : Fin 8, (1#8 <<< k.val).setWidth 16 = 1#16 <<< k.val := by decide
    rw [← crcUpdate_xor, hb, BitVec.xor_self, crcUpdate, hw, BitVec.zero_xor]
  have hlast := lasting_foldl hp post (hbit ▸ lasting_of_bit hp k)
  intro heq
  rw [flipBit, hflip, crc16, crc16, BitVec.xor_left_inj, List.foldl_append, List.foldl_append] at heq
  exact hlast.1 (BitVec.xor_eq_zero_iff.2 heq)

theorem crc16_zeros_append (cfg : Cfg) (n : Nat) (s : List Byte) :
    crc16 cfg (List.replicate n 0x00 ++ s) = crc16 cfg s := by
  have hzero : crcUpdate cfg.poly 0 0 = 0 := by rw [crcUpdate]; simp [crcShifts, crcShift]
  have hzeros : (List.replicate n (0x00 : Byte)).foldl (crcUpdate cfg.poly) 0x0000 = 0x0000 := by
    induction n with
    | zero => rfl
    | succ n ih => rw [List.replicate_succ, List.foldl_cons, hzero]; exact ih
  rw [crc16, List.foldl_append, hzeros, crc16]

theorem crc16_concat (cfg : Cfg) (s : List Byte) (b : Byte) :
    crc16 cfg (s ++ [b]) = crcUpdate cfg.poly (crc16 cfg s ^^^ cfg.xorout) b ^^^ cfg.xorout := by
  rw [crc16, crc16, List.foldl_append, BitVec.xor_assoc, BitVec.xor_self, BitVec.xor_zero]
  rfl

/-- The last bit of a byte is shifted out by its last shift. -/
theorem crc16_0x80 (cfg : Cfg) : crc16 cfg [0x80] = cfg.poly ^^^ cfg.xorout :=
  congrArg (· ^^^ cfg.xorout) (crcShifts_bit cfg.poly 7 (by decide))

theorem crc16_zipWith {cfg : Cfg} (h0 : cfg.xorout = 0) {a b : List Byte} (h : a.length = b.length) :
    crc16 cfg (List.zipWith (· ^^^ ·) a b) = crc16 cfg a ^^^ crc16 cfg b := by
  simpa [crc16, h0] using foldl_crcUpdate_zipWith cfg.poly a b h 0 0

end Sys2Proof.Machine
end

section
/-! PROOFS. Framed strings (40_crc.md R82 to R87): the blocks, stripping block by block, the round trip, and the
single-bit corruption of R86. -/

namespace Sys2Proof.Machine

/-! ### Strings and framed strings, block by block -/

/-- A string is full blocks and then at most one short block (R82). -/
theorem string_induction {P : List Byte → Prop} (nil : P [])
    (short : ∀ blk : List Byte, 1 ≤ blk.length → blk.length ≤ 15 → P blk)
    (block : ∀ blk s : List Byte, blk.length = 16 → P s → P (blk ++ s)) (s : List Byte) : P s := by
  by_cases h0 : s = []
  · exact h0 ▸ nil
  · have hpos : 1 ≤ s.length := List.length_pos_iff.2 h0
    by_cases hlen : s.length ≤ 15
    · exact short s hpos hlen
    · have hrest : P (s.drop 16) := string_induction nil short block (s.drop 16)
      rw [← List.take_append_drop 16 s]
      exact block _ _ (by rw [List.length_take]; omega) hrest
  termination_by s.length
  decreasing_by rw [List.length_drop]; omega

/-- A framed string is full blocks with their CRCs and then nothing, a tail of 1 or 2 bytes, or one short block with its
CRC (R84). -/
theorem framed_induction {P : List Byte → Prop} (nil : P [])
    (tail : ∀ f : List Byte, 1 ≤ f.length → f.length ≤ 2 → P f)
    (short : ∀ (blk : List Byte) (lo hi : Byte), 1 ≤ blk.length → blk.length ≤ 15 → P (blk ++ [lo, hi]))
    (block : ∀ (blk : List Byte) (lo hi : Byte) (f : List Byte), blk.length = 16 → P f → P (blk ++ lo :: hi :: f))
    (f : List Byte) : P f := by
  by_cases h0 : f = []
  · exact h0 ▸ nil
  have hpos : 1 ≤ f.length := List.length_pos_iff.2 h0
  by_cases h2 : f.length ≤ 2
  · exact tail f hpos h2
  by_cases h17 : f.length ≤ 17
  · obtain ⟨lo, hi, hcrc⟩ := List.length_eq_two.1
      (show (f.drop (f.length - 2)).length = 2 by rw [List.length_drop]; omega)
    rw [← List.take_append_drop (f.length - 2) f, hcrc]
    exact short _ lo hi (by rw [List.length_take]; omega) (by rw [List.length_take]; omega)
  · obtain ⟨lo, hi, hcrc⟩ := List.length_eq_two.1
      (show ((f.drop 16).take 2).length = 2 by rw [List.length_take, List.length_drop]; omega)
    have hrest : P (f.drop 18) := framed_induction nil tail short block (f.drop 18)
    have hf : f = f.take 16 ++ lo :: hi :: f.drop 18 := by
      calc f = f.take 16 ++ ((f.drop 16).take 2 ++ (f.drop 16).drop 2) := by simp only [List.take_append_drop]
        _ = f.take 16 ++ lo :: hi :: f.drop 18 := by rw [hcrc, List.drop_drop]; rfl
    rw [hf]
    exact block _ lo hi _ (by rw [List.length_take]; omega) hrest
  termination_by f.length
  decreasing_by rw [List.length_drop]; omega

/-! ### The blocks of a string -/

theorem chunkN_eq_map (k : Nat) (s : List Byte) :
    chunkN k s = (List.range k).map fun j => (s.drop (16 * j)).take 16 := by
  induction k generalizing s with
  | zero => rfl
  | succ k ih =>
    rw [chunkN, ih, List.range_succ_eq_map, List.map_cons, List.map_map]
    congr 1
    refine List.map_congr_left fun j _ => ?_
    rw [Function.comp_apply, List.drop_drop, Nat.mul_succ, Nat.add_comm]

theorem chunk_length (s : List Byte) : (chunk s).length = (s.length + 15) / 16 := by
  rw [chunk, chunkN_eq_map, List.length_map, List.length_range]

theorem chunk_getElem? (s : List Byte) {j : Nat} (hj : j < (chunk s).length) :
    (chunk s)[j]? = some ((s.drop (16 * j)).take 16) := by
  rw [chunk_length] at hj
  rw [chunk, chunkN_eq_map, List.getElem?_map, List.getElem?_range hj]
  rfl

theorem chunk_flatten (s : List Byte) : (chunk s).flatten = s := by
  induction s using string_induction with
  | nil => rfl
  | short blk h1 h15 => rw [chunk_short blk h1 (by omega), List.flatten_singleton]
  | block blk s h16 ih => rw [chunk_append_block blk s h16, List.flatten_cons, ih]

theorem chunk_lengths (s : List Byte) : ∀ b ∈ chunk s, 1 ≤ b.length ∧ b.length ≤ 16 := by
  induction s using string_induction with
  | nil => intro b hb; cases hb
  | short blk h1 h15 =>
    intro b hb
    rw [chunk_short blk h1 (by omega), List.mem_singleton] at hb
    subst hb
    omega
  | block blk s h16 ih =>
    intro b hb
    rw [chunk_append_block blk s h16] at hb
    obtain rfl | hb := List.mem_cons.1 hb
    · omega
    · exact ih b hb

theorem chunk_dropLast_lengths (s : List Byte) : ∀ b ∈ (chunk s).dropLast, b.length = 16 := by
  induction s using string_induction with
  | nil => intro b hb; cases hb
  | short blk h1 h15 =>
    intro b hb
    rw [chunk_short blk h1 (by omega)] at hb
    cases hb
  | block blk s h16 ih =>
    intro b hb
    rw [chunk_append_block blk s h16] at hb
    by_cases hs : chunk s = []
    · rw [hs] at hb
      cases hb
    · rw [List.dropLast_cons_of_ne_nil hs] at hb
      obtain rfl | hb := List.mem_cons.1 hb
      · exact h16
      · exact ih b hb

/-- Settles O41: the blocks by number, and each with its CRC. -/
theorem framedStringIsBlocksWithCrcs : Obligations.FramedStringIsBlocksWithCrcs :=
  fun cfg s => ⟨chunk_length s, chunk_flatten s, fun _ hj => chunk_getElem? s hj, chunk_lengths s,
    chunk_dropLast_lengths s, rfl, rfl, addChecksums_length cfg s⟩

/-! ### Stripping -/

section
variable {c : Cfg} {k : Nat} {blk : List Byte} {lo hi : Byte}

theorem verifyBlock_good (h : crc16 c blk = hi ++ lo) : verifyBlock c k blk [lo, hi] = .ok blk :=
  (verifyBlock_eq c k blk lo hi).trans (if_pos h)

theorem verifyBlock_bad (h : crc16 c blk ≠ hi ++ lo) :
    verifyBlock c k blk [lo, hi] = .error (.checksumMismatch k (crc16 c blk) (hi ++ lo)) :=
  (verifyBlock_eq c k blk lo hi).trans (if_neg h)

end

/-- A tail of 1 or 2 bytes is no block (R133). -/
theorem stripAndVerify_tail (c : Cfg) (k : Nat) {f : List Byte} (h1 : 1 ≤ f.length) (h2 : f.length ≤ 2) :
    stripAndVerify c f k = .error (.truncatedBlock k f.length) := by
  unfold stripAndVerify
  rw [show f.length / 18 = 0 by omega, stripBlocks, stripTail, if_neg (by omega), if_pos h2]

/-- Stripping goes on past a full block with its own CRC. -/
theorem stripAndVerify_withCrc_append (c : Cfg) (blk f : List Byte) (k : Nat) (h : blk.length = 16) :
    stripAndVerify c (withCrc c blk ++ f) k = (stripAndVerify c f (k + 1)).map (blk ++ ·) := by
  have hv : verifyBlock c k blk (le16 (crc16 c blk)) = .ok blk := verifyBlock_good (half_split _).symm
  rw [withCrc, List.append_assoc]
  exact (stripAndVerify_append_block c blk f _ _ k h).trans (by rw [← le16, hv]; rfl)

/-- Stripping goes on past the full blocks of a string, each with its CRC. -/
theorem stripAndVerify_addChecksums_append (c : Cfg) (good f : List Byte) (n k : Nat) (h : good.length = 16 * n) :
    stripAndVerify c (addChecksums c good ++ f) k = (stripAndVerify c f (k + n)).map (good ++ ·) := by
  induction n generalizing good k with
  | zero =>
    obtain rfl := List.length_eq_zero_iff.1 h
    cases hf : stripAndVerify c f k <;> simp [addChecksums, chunk, chunkN, Except.map, hf]
  | succ n ih =>
    obtain ⟨blk, rest, rfl, hblk⟩ : ∃ blk rest, good = blk ++ rest ∧ blk.length = 16 :=
      ⟨good.take 16, good.drop 16, (List.take_append_drop ..).symm, by rw [List.length_take]; omega⟩
    have hrest : rest.length = 16 * n := by rw [List.length_append] at h; omega
    rw [addChecksums_append_block c _ _ hblk, List.append_assoc, stripAndVerify_withCrc_append c _ _ _ hblk,
      ih _ _ hrest, Nat.add_assoc, Nat.add_comm 1]
    cases stripAndVerify c f (k + (n + 1)) with
    | ok out => exact congrArg Except.ok (List.append_assoc ..).symm
    | error e => rfl

/-- R85, with the block numbers starting anywhere. -/
theorem stripAndVerify_addChecksums (c : Cfg) (s : List Byte) (k : Nat) :
    stripAndVerify c (addChecksums c s) k = .ok s := by
  induction s using string_induction generalizing k with
  | nil => exact stripAndVerify_nil c k
  | short blk h1 h15 =>
    rw [addChecksums_short c blk h1 (by omega)]
    exact (stripAndVerify_short c blk _ _ k h1 h15).trans (verifyBlock_good (half_split _).symm)
  | block blk s h16 ih =>
    rw [addChecksums_append_block c blk s h16, stripAndVerify_withCrc_append c _ _ _ h16, ih]
    rfl

/-- Settles O42, with the blocks numbered from 0. -/
theorem stripInvertsAddChecksums : Obligations.StripInvertsAddChecksums :=
  fun cfg s => stripAndVerify_addChecksums cfg s 0

/-- Settles O44. With P_XOROUT = 0 the CRC of zeros is that of the empty string, so that zeros and a zero CRC are a
framed string. -/
theorem crcArithmeticLaws : Obligations.CrcArithmeticLaws := by
  intro cfg
  refine ⟨fun acc b => crcShifts_eq_iterate .., BitVec.zero_xor, crc16_concat cfg, crc16_0x80 cfg,
    crc16_zeros_append cfg, fun h0 a b => crc16_zipWith h0, fun h0 n h1 h16 => ?_⟩
  have hcrc : crc16 cfg (List.replicate n 0x00) = 0 := by
    have h := crc16_zeros_append cfg n []
    rw [List.append_nil] at h
    exact h.trans (BitVec.zero_xor.trans h0)
  have hframed : List.replicate n 0x00 ++ [0x00, 0x00] = addChecksums cfg (List.replicate n 0x00) := by
    rw [addChecksums_short cfg _ (by simpa using h1) (by simpa using h16), withCrc, hcrc]
    rfl
  rw [hframed, stripAndVerify_addChecksums]

/-! ### One flipped bit -/

theorem flipBit_length (f : List Byte) (j : Nat) (b : Fin 8) : (flipBit f j b).length = f.length :=
  List.length_modify ..

theorem flipBit_append_left {f : List Byte} {j : Nat} (hj : j < f.length) (g : List Byte) (b : Fin 8) :
    flipBit (f ++ g) j b = flipBit f j b ++ g := by
  induction f generalizing j with
  | nil => cases hj
  | cons a f ih =>
    cases j with
    | zero => rfl
    | succ j =>
      have h := ih (Nat.lt_of_succ_lt_succ hj)
      simp only [flipBit, List.cons_append, List.modify_succ_cons] at h ⊢
      rw [h]

theorem flipBit_append_right (f g : List Byte) (j : Nat) (b : Fin 8) :
    flipBit (f ++ g) (f.length + j) b = f ++ flipBit g j b := by
  induction f with
  | nil => rw [List.length_nil, Nat.zero_add]; rfl
  | cons a f ih =>
    simp only [flipBit, List.cons_append, List.length_cons, Nat.add_right_comm _ 1, List.modify_succ_cons] at ih ⊢
    rw [ih]

theorem flipBit_ne {f : List Byte} {j : Nat} (hj : j < f.length) (b : Fin 8) : flipBit f j b ≠ f := by
  intro h
  have hbit : ∀ b : Fin 8, (1#8 <<< b.val) ≠ 0 := by decide
  exact hbit b (by simpa [flipBit, hj] using congrArg (·[j]?) h)

theorem le16_half (lo hi : Byte) : le16 (hi ++ lo) = [lo, hi] := by
  rw [le16, BitVec.extractLsb'_append_eq_right, BitVec.extractLsb'_append_eq_left]

theorem halfAt_flipBit_ne {f : List Byte} (hf : f.length = 2) {j : Nat} (hj : j < f.length) (b : Fin 8) :
    halfAt (flipBit f j b) 0 ≠ halfAt f 0 := by
  have hle (g : List Byte) (hg : g.length = 2) : le16 (halfAt g 0) = g := by
    obtain ⟨lo, hi, rfl⟩ := List.length_eq_two.1 hg
    exact le16_half lo hi
  exact fun h => flipBit_ne hj b (calc
    flipBit f j b = le16 (halfAt (flipBit f j b) 0) := (hle _ ((flipBit_length ..).trans hf)).symm
    _ = f := (congrArg le16 h).trans (hle f hf))

/-- A flip in a good block or in its CRC leaves a block of the same length that does not verify. -/
theorem flipBit_block {c : Cfg} (hp : c.poly ≠ 0) {blk : List Byte} {lo hi : Byte} (hgood : crc16 c blk = hi ++ lo)
    {j : Nat} (hj : j < blk.length + 2) (b : Fin 8) : ∃ blk' lo' hi', blk'.length = blk.length ∧
      crc16 c blk' ≠ hi' ++ lo' ∧ ∀ f, flipBit (blk ++ lo :: hi :: f) j b = blk' ++ lo' :: hi' :: f := by
  by_cases hdata : j < blk.length
  · exact ⟨flipBit blk j b, lo, hi, flipBit_length .., hgood ▸ crc16_flipBit_ne hp hdata b,
      fun f => flipBit_append_left hdata _ b⟩
  · obtain ⟨i, rfl⟩ := Nat.exists_eq_add_of_le (Nat.le_of_not_lt hdata)
    have hi2 : i < [lo, hi].length := by simpa using hj
    obtain ⟨lo', hi', hcrc⟩ := List.length_eq_two.1 (flipBit_length [lo, hi] i b)
    have hne : hi' ++ lo' ≠ hi ++ lo := by
      have h := halfAt_flipBit_ne rfl hi2 b
      rwa [hcrc] at h
    refine ⟨blk, lo', hi', rfl, hgood ▸ hne.symm, fun f => ?_⟩
    calc flipBit (blk ++ ([lo, hi] ++ f)) (blk.length + i) b = blk ++ (flipBit [lo, hi] i b ++ f) := by
          rw [flipBit_append_right, flipBit_append_left hi2]
      _ = blk ++ lo' :: hi' :: f := by rw [hcrc]; rfl

/-- R86: the flipped block's check fails, and every block before it still verifies. -/
theorem stripAndVerify_flipBit {c : Cfg} (hp : c.poly ≠ 0) {f str : List Byte} {j k : Nat} (b : Fin 8)
    (hj : j < f.length) (h : stripAndVerify c f k = .ok str) :
    ∃ n ex rx, stripAndVerify c (flipBit f j b) k = .error (.checksumMismatch n ex rx) := by
  induction f using framed_induction generalizing j k str with
  | nil => cases hj
  | tail f h1 h2 =>
    rw [stripAndVerify_tail c k h1 h2] at h
    cases h
  | short blk lo hi h1 h15 =>
    rw [stripAndVerify_short c blk lo hi k h1 h15] at h
    have hgood : crc16 c blk = hi ++ lo := (verifyBlock_eq_ok.1 h).1
    obtain ⟨blk', lo', hi', hlen, hbad, hflip⟩ := flipBit_block hp hgood (by simpa using hj) b
    exact ⟨_, _, _, by rw [hflip, stripAndVerify_short c _ _ _ _ (by omega) (by omega), verifyBlock_bad hbad]⟩
  | block blk lo hi f h16 ih =>
    rw [stripAndVerify_append_block c blk f lo hi k h16] at h
    obtain ⟨_, hblk, h⟩ := bind_eq_ok.1 h
    obtain ⟨rest, hrest, -⟩ := bind_eq_ok.1 h
    have hgood : crc16 c blk = hi ++ lo := (verifyBlock_eq_ok.1 hblk).1
    by_cases hb : j < blk.length + 2
    · obtain ⟨blk', lo', hi', hlen, hbad, hflip⟩ := flipBit_block hp hgood hb b
      exact ⟨_, _, _, by
        rw [hflip, stripAndVerify_append_block c _ _ _ _ _ (by omega), verifyBlock_bad hbad, error_bind]⟩
    · obtain ⟨i, rfl⟩ := Nat.exists_eq_add_of_le (Nat.le_of_not_lt hb)
      obtain ⟨n, ex, rx, hn⟩ := ih (j := i) (by simp at hj; omega) hrest
      have hflip : flipBit (blk ++ lo :: hi :: f) (blk.length + 2 + i) b = blk ++ lo :: hi :: flipBit f i b := by
        have h := flipBit_append_right (blk ++ [lo, hi]) f i b
        simpa using h
      exact ⟨n, ex, rx, by rw [hflip, stripAndVerify_append_block c _ _ _ _ _ h16, hblk, hn]; rfl⟩

/-- Settles O43: the checksum tells the flipped string from the good one, and so the flipped block fails its check. -/
theorem singleBitFlipIsDetected : Obligations.SingleBitFlipIsDetected :=
  fun _ _ f _ j b hp hj => ⟨stripAndVerify_flipBit hp b hj, crc16_flipBit_ne hp hj b,
    fun hf => halfAt_flipBit_ne hf hj b, flipBit_length f j b⟩

end Sys2Proof.Machine
end

section
/-! PROOFS. The commands of the CRC engine (40_crc.md R88 to R90), IN_LEN above IN_CAP (R78), and the first failure of
STRIP_CRC (R84). -/

namespace Sys2Proof.Machine

variable {s : State} {i : Instr}

/-! ### Results -/

/-- Settles O5: CRC is the only result. -/
theorem crc16WritesTheChecksum : Obligations.Crc16WritesTheChecksum :=
  fun _ str h => exec_of_body_ok (body_crc16_ok.2 ⟨str, h, rfl⟩)

/-- A command that stages a string which fits OUT outputs it and completes (R79). -/
theorem exec_emits {out : List Byte} (hc : s.cfg.legal = true) (hl : out.length ≤ s.cfg.outCap)
    (h : body i s = .ok (s.setOutput out)) : ∃ t, exec i s = .next t ∧ s.completed.emits t out :=
  ⟨_, exec_of_body_ok h, s.completed.setOutput_emits out (by have := outCap_le_of_legal hc; omega)⟩

/-- Settles O6: OUT_CAP holds the CRCs of every input (R13). -/
theorem addCrcOutputsTheFramedString : Obligations.AddCrcOutputsTheFramedString := by
  intro s str hc hin
  obtain ⟨-, -, -, -, -, hcap, -⟩ := cfg_bounds hc
  have ⟨_, hstr, _⟩ := hin
  have hfits : (addChecksums s.cfg str).length ≤ s.cfg.outCap := by rw [addChecksums_length]; omega
  exact exec_emits hc hfits (body_addCrc_ok.2 ⟨str, hin, hfits, rfl⟩)

/-- Settles O7, by the round trip of R85. -/
theorem stripCrcOutputsTheString : Obligations.StripCrcOutputsTheString := by
  intro s str hc hin
  obtain ⟨-, -, -, -, -, hcap, -⟩ := cfg_bounds hc
  have ⟨_, hf, _⟩ := hin
  have hstrip := stripAndVerify_addChecksums s.cfg str 0
  have hfits : str.length ≤ s.cfg.outCap := by have := stripAndVerify_length_le hstrip; omega
  exact exec_emits hc hfits (body_stripCrc_ok.2 ⟨_, hin, str, hstrip, hfits, rfl⟩)

/-! ### Errors -/

/-- Settles O21: `CheckIn` raises IN_LEN_RANGE before anything else, and the command stops as it does. -/
theorem inputLongerThanBufferRaises : Obligations.InputLongerThanBufferRaises := by
  intro i s hi hlen
  have hcheck : s.checkIn = .error (.raise (.programmerError (.inLenRange s.inLen.toNat))) :=
    State.checkIn_eq_error.2 (.inl ⟨hlen, rfl⟩)
  rw [exec_of_body_raise (body_of_checkIn_error hi hcheck), State.raiseError_eq_failed, ← BitVec.ofNat_toNat]
  rfl

/-- STRIP_CRC reports how stripping stops after any number of good full blocks. -/
theorem exec_stripCrc_error {good rest : List Byte} {k : Nat} {e : CmdError} (hgood : good.length = 16 * k)
    (hin : s.inputIs (addChecksums s.cfg good ++ rest)) (h : stripAndVerify s.cfg rest k = .error e) :
    exec .stripCrc s = .next (s.failed e.code e.info0 e.info1) := by
  have hstrip : stripAndVerify s.cfg (addChecksums s.cfg good ++ rest) 0 = .error e := by
    rw [stripAndVerify_addChecksums_append s.cfg good rest k 0 hgood, Nat.zero_add, h]
    rfl
  refine exec_of_body_raise ?_
  rw [body, State.checkIn_eq_ok.2 hin, ok_bind, hstrip]
  rfl

/-- Settles O28: after the good blocks comes a bad full block, a bad short block, or a tail. -/
theorem stripCrcReportsTheFirstFailure : Obligations.StripCrcReportsTheFirstFailure := by
  intro s good k hgood
  refine ⟨fun blk rest lo hi h16 hin hbad => ?_, fun blk lo hi h1 h15 hin hbad => ?_, fun tail h1 h2 hin => ?_⟩
  · rw [List.append_assoc, List.append_assoc] at hin
    have hstrip : stripAndVerify s.cfg (blk ++ ([lo, hi] ++ rest)) k =
        .error (.checksumMismatch k (crc16 s.cfg blk) (hi ++ lo)) :=
      (stripAndVerify_append_block s.cfg blk rest lo hi k h16).trans (by rw [verifyBlock_bad hbad, error_bind])
    exact exec_stripCrc_error hgood hin hstrip
  · rw [List.append_assoc] at hin
    have hstrip := (stripAndVerify_short s.cfg blk lo hi k h1 h15).trans (verifyBlock_bad hbad)
    exact exec_stripCrc_error hgood hin hstrip
  · exact exec_stripCrc_error hgood hin (stripAndVerify_tail s.cfg k h1 h2)

end Sys2Proof.Machine
end

section
/-! PROOFS. The codecs on the wire's own bytes: each decoder at its header's offset, whatever stands before and after it
(41_header_codec.md R93 to R99), the frame codec's round trip (42_frame.md R112, R113), the parser on a whole frame
(R119) and the builder's frame (R116). -/

namespace Sys2Proof.Machine

variable {c : Cfg}

/-! ### Fields at an offset -/

theorem byteAt_append (pre str : List Byte) (i : Nat) : byteAt (pre ++ str) (pre.length + i) = byteAt str i := by
  rw [byteAt, byteAt, List.getD_append_right _ _ _ _ (by omega), Nat.add_sub_cancel_left]

theorem halfAt_append (pre str : List Byte) (i : Nat) : halfAt (pre ++ str) (pre.length + i) = halfAt str i := by
  rw [halfAt, halfAt, Nat.add_assoc, byteAt_append, byteAt_append]

theorem slice_append (pre str post : List Byte) : slice (pre ++ (str ++ post)) pre.length str.length = str := by
  rw [slice, List.drop_left, List.take_left]

theorem length_append_sub (pre str : List Byte) : (pre ++ str).length - pre.length = str.length := by
  rw [List.length_append, Nat.add_sub_cancel_left]

/-! ### The three fixed headers -/

theorem decDl_wireDl (pre post : List Byte) (h : DlHeader) :
    decDl (pre ++ (wireDl h ++ post)) pre.length = .ok (h, 8) := by
  have hb := byteAt_append pre (wireDl h ++ post)
  have hh := halfAt_append pre (wireDl h ++ post)
  have hdest : halfAt (wireDl h ++ post) 4 = h.dest := half_split h.dest
  have hsrc : halfAt (wireDl h ++ post) 6 = h.src := half_split h.src
  refine decDl_eq_ok.2 ⟨?_, hb 0, hb 1, rfl, ?_⟩
  · rw [length_append_sub, List.length_append]
    exact Nat.le_add_right 8 _
  · rw [hb, hb, hh, hh, hdest, hsrc]
    rfl

theorem decTh_wireTh (pre post : List Byte) (h : ThHeader) :
    decTh (pre ++ (wireTh h ++ post)) pre.length = .ok (h, 1) := by
  refine decTh_eq_ok.2 ⟨?_, rfl, ?_⟩
  · rw [length_append_sub, List.length_append]
    exact Nat.le_add_right 1 _
  · exact (thOfByte_byte h).symm.trans (congrArg thOfByte (byteAt_append pre (wireTh h ++ post) 0).symm)

theorem wireAh_length (c : Cfg) (h : AhHeader) : (wireAh c h).length = if carriesIin c h.fc then 4 else 2 := by
  unfold wireAh
  split_ifs <;> rfl

/-- The header as the wire carries it: IIN is 0 where there is no field for it (41_header_codec.md R97). -/
def AhHeader.carried (c : Cfg) (h : AhHeader) : AhHeader := if carriesIin c h.fc then h else { h with iin := 0 }

theorem decAh_wireAh (c : Cfg) (pre post : List Byte) (h : AhHeader) :
    decAh c (pre ++ (wireAh c h ++ post)) pre.length = .ok (h.carried c, (wireAh c h).length) := by
  have hb := byteAt_append pre (wireAh c h ++ post)
  have hfc : byteAt (pre ++ (wireAh c h ++ post)) (pre.length + 1) = h.fc := hb 1
  have hcontrol : byteAt (pre ++ (wireAh c h ++ post)) pre.length = h.control := hb 0
  have hlen : (wireAh c h).length ≤ (pre ++ (wireAh c h ++ post)).length - pre.length := by
    rw [length_append_sub, List.length_append]
    exact Nat.le_add_right ..
  rw [decAh_eq_ok, hfc, hcontrol]
  unfold AhHeader.carried
  rw [wireAh_length] at hlen ⊢
  by_cases hc : carriesIin c h.fc
  · rw [if_pos hc] at hlen ⊢
    rw [if_pos hc]
    have hiin : halfAt (pre ++ (wireAh c h ++ post)) (pre.length + 2) = h.iin := by
      rw [halfAt_append, wireAh, if_pos hc]
      exact half_split h.iin
    exact ⟨by omega, .inl ⟨hc, hlen, rfl, by rw [hiin, ahOfFields_control]⟩⟩
  · rw [if_neg hc] at hlen ⊢
    rw [if_neg hc]
    exact ⟨hlen, .inr ⟨hc, rfl, (ahOfFields_control { h with iin := 0 }).symm⟩⟩

/-! ### Object headers -/

theorem fromLE_wireLe {v : Word} {n : Nat} (h : v.toNat < 2 ^ (8 * n)) : BitVec.ofNat 32 (fromLE (wireLe v n)) = v := by
  rw [← leN_eq_wireLe, fromLE_leN _ _ h, BitVec.ofNat_toNat, BitVec.setWidth_eq]

theorem wireRange_length {q : Byte} {kind : RangeKind} {rl : Nat} (h : rangeLen c q = some (kind, rl)) (a b : Word) :
    (wireRange kind rl a b).length = rl := by
  obtain ⟨rfl, rfl⟩ | ⟨rfl, hrl⟩ | ⟨rfl, -⟩ := rangeLen_rows h
  · rfl
  · rw [wireRange, List.length_append, wireLe_length, wireLe_length]
    omega
  · exact wireLe_length a rl

theorem wireObj_length {o : ObjHeader} (h : rangeLen c o.hdr.qual = some (o.kind, o.rl)) :
    (wireObj o).length = 3 + o.rl := by
  rw [wireObj, List.length_append, wireRange_length h]
  rfl

/-- The range field of a canonical header decodes to its values. -/
theorem decRange_wireRange {o : ObjHeader} (h : canonicalObj c o) :
    decRange o.kind o.rl (wireRange o.kind o.rl o.hdr.a o.hdr.b) = (o.hdr.a, o.hdr.b) := by
  obtain ⟨⟨group, var, qual, a, b⟩, kind, rl⟩ := o
  obtain ⟨hrow, hval⟩ := h
  cases kind with
  | none =>
    obtain ⟨rfl, rfl⟩ := hval
    rfl
  | startStop =>
    obtain ⟨ha, hb⟩ := hval
    have hlow : slice (wireLe a (rl / 2) ++ wireLe b (rl / 2)) 0 (rl / 2) = wireLe a (rl / 2) := by
      simpa [wireLe_length] using slice_append [] (wireLe a (rl / 2)) (wireLe b (rl / 2))
    have hhigh : slice (wireLe a (rl / 2) ++ wireLe b (rl / 2)) (rl / 2) (rl / 2) = wireLe b (rl / 2) := by
      simpa [wireLe_length] using slice_append (wireLe a (rl / 2)) (wireLe b (rl / 2)) []
    rw [decRange, wireRange, hlow, hhigh, fromLE_wireLe ha, fromLE_wireLe hb]
  | count =>
    obtain ⟨ha, rfl⟩ := hval
    rw [decRange, wireRange, fromLE_wireLe ha]

theorem decOh_wireObj {o : ObjHeader} (h : canonicalObj c o) (pre post : List Byte) :
    decOh c (pre ++ (wireObj o ++ post)) pre.length = .ok (o, 3 + o.rl) := by
  have hb := byteAt_append pre (wireObj o ++ post)
  have hgroup : byteAt (pre ++ (wireObj o ++ post)) pre.length = o.hdr.group := hb 0
  have hvar : byteAt (pre ++ (wireObj o ++ post)) (pre.length + 1) = o.hdr.var := hb 1
  have hqual : byteAt (pre ++ (wireObj o ++ post)) (pre.length + 2) = o.hdr.qual := hb 2
  have hrow : rangeLen c o.hdr.qual = some (o.kind, o.rl) := h.1
  have hrange : slice (pre ++ (wireObj o ++ post)) (pre.length + 3) o.rl = wireRange o.kind o.rl o.hdr.a o.hdr.b := by
    have hslice := slice_append (pre ++ [o.hdr.group, o.hdr.var, o.hdr.qual])
      (wireRange o.kind o.rl o.hdr.a o.hdr.b) post
    rw [wireRange_length hrow, List.length_append] at hslice
    simpa [wireObj] using hslice
  rw [decOh_eq_ok, hgroup, hvar, hqual, hrange, decRange_wireRange h]
  refine ⟨hrow, ?_, rfl, rfl⟩
  rw [length_append_sub, List.length_append, wireObj_length hrow]
  exact Nat.le_add_right ..

/-- The object loop reads every header up to the end of the frame (42_frame.md R119). -/
theorem parseObjects_wireObjs {objs : List ObjHeader} (h : ∀ o ∈ objs, canonicalObj c o) (pre : List Byte) {n : Nat}
    (hn : objs.length ≤ n) : parseObjects c (pre ++ objs.flatMap wireObj) n pre.length = .ok objs := by
  induction objs generalizing pre n with
  | nil =>
    cases n with
    | zero => rfl
    | succ n => rw [List.flatMap_nil, List.append_nil, parseObjects, if_neg (Nat.lt_irrefl _)]
  | cons o objs ih =>
    cases n with
    | zero => cases hn
    | succ n =>
      obtain ⟨ho, hobjs⟩ := List.forall_mem_cons.1 h
      have hlen : (wireObj o).length = 3 + o.rl := wireObj_length ho.1
      have hmore : pre.length < (pre ++ (wireObj o ++ objs.flatMap wireObj)).length := by
        rw [List.length_append, List.length_append]
        omega
      have hrest := ih hobjs (pre ++ wireObj o) (Nat.le_of_succ_le_succ hn)
      rw [List.append_assoc, List.length_append, hlen] at hrest
      rw [List.flatMap_cons, parseObjects, if_pos hmore]
      simp only [decOh_wireObj ho, hrest, ok_bind]

/-! ### Frames -/

theorem wireObjs_length_ge {objs : List ObjHeader} (h : ∀ o ∈ objs, canonicalObj c o) :
    objs.length ≤ (objs.flatMap wireObj).length := by
  induction objs with
  | nil => exact Nat.le_refl 0
  | cons o objs ih =>
    obtain ⟨ho, hobjs⟩ := List.forall_mem_cons.1 h
    have hrest := ih hobjs
    have hlen : (wireObj o).length = 3 + o.rl := wireObj_length ho.1
    rw [List.flatMap_cons, List.length_append, List.length_cons]
    omega

/-- R114: framing is undone, also where the header is a block of its own. -/
theorem frameDecode_frameEncode (c : Cfg) {u : List Byte} (h : c.hdrBlock = .separate → 8 ≤ u.length) :
    frameDecode c (frameEncode c u) = .ok u := by
  unfold frameDecode frameEncode
  cases hb : c.hdrBlock with
  | flat => exact stripAndVerify_addChecksums c u 0
  | separate =>
    have hhdr : (addChecksums c (u.take 8)).length = 10 := by
      rw [addChecksums_length, List.length_take, Nat.min_eq_left (h hb)]
    have htake := List.take_left (l₁ := addChecksums c (u.take 8)) (l₂ := addChecksums c (u.drop 8))
    have hdrop := List.drop_left (l₁ := addChecksums c (u.take 8)) (l₂ := addChecksums c (u.drop 8))
    rw [hhdr] at htake hdrop
    dsimp only
    rw [if_neg (by rw [List.length_append]; omega), htake, hdrop]
    simp only [stripAndVerify_addChecksums, ok_bind, List.take_append_drop]

/-- The frame's parts are read one after the other (42_frame.md R119). -/
theorem parseUnframed_wireHeaders (dl : DlHeader) (th : ThHeader) (ah : AhHeader) {objs : List ObjHeader}
    (h : ∀ o ∈ objs, canonicalObj c o) :
    parseUnframed c (wireHeaders c dl th ah objs) = .ok { dl := dl, th := th, ah := ah.carried c, objs := objs } := by
  have hu : wireHeaders c dl th ah objs = wireDl dl ++ (wireTh th ++ (wireAh c ah ++ objs.flatMap wireObj)) := by
    simp only [wireHeaders, List.append_assoc]
  have hlen : (wireHeaders c dl th ah objs).length = 9 + (wireAh c ah).length + (objs.flatMap wireObj).length := by
    rw [hu, List.length_append, List.length_append, List.length_append, ← Nat.add_assoc, ← Nat.add_assoc]
    rfl
  have hah2 : 2 ≤ (wireAh c ah).length := by rw [wireAh_length]; split_ifs <;> decide
  have hn := wireObjs_length_ge h
  have hdl : decDl (wireHeaders c dl th ah objs) 0 = .ok (dl, 8) := hu ▸ decDl_wireDl [] _ dl
  have hth : decTh (wireHeaders c dl th ah objs) 8 = .ok (th, 1) := hu ▸ decTh_wireTh (wireDl dl) _ th
  have hah : decAh c (wireHeaders c dl th ah objs) 9 = .ok (ah.carried c, (wireAh c ah).length) := by
    rw [hu, ← List.append_assoc]
    exact decAh_wireAh c (wireDl dl ++ wireTh th) _ ah
  have hobjs : parseObjects c (wireHeaders c dl th ah objs) (wireHeaders c dl th ah objs).length
      (9 + (wireAh c ah).length) = .ok objs := by
    have hpre : (wireDl dl ++ wireTh th ++ wireAh c ah).length = 9 + (wireAh c ah).length := List.length_append
    rw [← hpre]
    exact parseObjects_wireObjs h _ (by omega)
  rw [parseUnframed, if_neg (by omega)]
  simp only [hdl, hth, hah, hobjs, ok_bind]

theorem parseFrame_frameEncode (dl : DlHeader) (th : ThHeader) (ah : AhHeader) {objs : List ObjHeader}
    (h : ∀ o ∈ objs, canonicalObj c o) :
    parseFrame c (frameEncode c (wireHeaders c dl th ah objs)) =
      .ok { dl := dl, th := th, ah := ah.carried c, objs := objs } := by
  have hlen : 8 ≤ (wireHeaders c dl th ah objs).length := by
    rw [wireHeaders, List.append_assoc, List.append_assoc, List.length_append]
    exact Nat.le_add_right 8 _
  rw [parseFrame, frameDecode_frameEncode c fun _ => hlen, ok_bind, parseUnframed_wireHeaders dl th ah h]

/-! ### The READ request -/

theorem wireRanges_length (rs : List ReadRange) : (wireRanges rs).length = 4 * rs.length := by
  simp [wireRanges, Nat.mul_comm]

theorem rangesOf_wireRanges (rs : List ReadRange) : rangesOf (wireRanges rs) = rs := by
  induction rs with
  | nil => rfl
  | cons r rs ih => exact congrArg (r :: ·) ih

/-- Qualifier 0x00 is start/stop with two bytes in both tables, and both values are bytes (42_frame.md R116). -/
theorem encOh_readRange (c : Cfg) (r : ReadRange) : encOh c r.header = .ok [r.group, r.var, 0x00, r.start, r.stop] := by
  have hrow : rangeLen c 0x00 = some (.startStop, 2) := by unfold rangeLen; cases c.qualMap <;> rfl
  have hfits (b : Byte) : (b.setWidth 32).toNat < 2 ^ (8 * (2 / 2)) := by have := b.isLt; simp; omega
  have hbyte (b : Byte) : wireLe (b.setWidth 32) (2 / 2) = [b] := by
    simp [wireLe, BitVec.extractLsb'_setWidth_of_le]
  refine encOh_eq_ok.2 ⟨.startStop, 2, hrow, fun _ => ⟨hfits r.start, hfits r.stop⟩, nofun, ?_⟩
  simp only [wireObj, wireRange, ReadRange.header, hbyte]
  rfl

/-- The object headers of a READ request. -/
def wireReadObjs (rs : List ReadRange) : List Byte := rs.flatMap fun r => [r.group, r.var, 0x00, r.start, r.stop]

theorem wireReadObjs_length (rs : List ReadRange) : (wireReadObjs rs).length = 5 * rs.length := by
  simp [wireReadObjs, Nat.mul_comm]

theorem encRanges_eq (c : Cfg) (rs : List ReadRange) : encRanges c rs = .ok (wireReadObjs rs) := by
  induction rs with
  | nil => rfl
  | cons r rs ih => rw [encRanges, encOh_readRange, ok_bind, ih]; rfl

/-- The user data of a READ request (42_frame.md R116). -/
def wireReadData (c : Cfg) (aseq : BitVec 4) (tseq : BitVec 6) (rs : List ReadRange) : List Byte :=
  wireTh { fin := true, fir := true, seq := tseq } ++
    wireAh c { fir := true, fin := true, con := false, uns := false, seq := aseq, fc := c.fcRead, iin := 0 } ++
    wireReadObjs rs

/-- LEN of a READ request: 8 + 5k for k ranges, and 2 more with an IIN field (42_frame.md R116). -/
theorem wireReadData_length (c : Cfg) (aseq : BitVec 4) (tseq : BitVec 6) (rs : List ReadRange) :
    5 + (wireReadData c aseq tseq rs).length = 8 + 5 * rs.length + if carriesIin c c.fcRead then 2 else 0 := by
  rw [wireReadData, List.length_append, List.length_append, wireReadObjs_length, wireAh_length]
  have hth (h : ThHeader) : (wireTh h).length = 1 := rfl
  rw [hth]
  dsimp only
  split_ifs <;> omega

/-- The builder makes the wire's frame, or finds LEN above 255. -/
theorem buildReadRequest_eq (c : Cfg) (src dst : Half) (aseq : BitVec 4) (tseq : BitVec 6) (rs : List ReadRange) :
    buildReadRequest c src dst aseq tseq rs =
      if 5 + (wireReadData c aseq tseq rs).length > 255 then
        .error (.programmerError (.lenOverflow (5 + (wireReadData c aseq tseq rs).length)))
      else .ok (frameEncode c (wireRead c src dst aseq tseq rs)) := by
  rw [buildReadRequest, encRanges_eq, ok_bind]
  dsimp only
  rw [encTh_eq, encAh_eq, encDl_eq]
  rfl

theorem buildReadRequest_ok (c : Cfg) (src dst : Half) (aseq : BitVec 4) (tseq : BitVec 6) {rs : List ReadRange}
    (h : rs.length ≤ 49) :
    buildReadRequest c src dst aseq tseq rs = .ok (frameEncode c (wireRead c src dst aseq tseq rs)) := by
  have hlen := wireReadData_length c aseq tseq rs
  rw [buildReadRequest_eq, if_neg (by split_ifs at hlen <;> omega)]

end Sys2Proof.Machine
end

section
/-! PROOFS. Output longer than OUT (40_crc.md R79), from every command that writes OUT. -/

namespace Sys2Proof.Machine

section
variable {s : State} {i : Instr} {out : List Byte}

/-- A string longer than OUT raises OUT_OVERFLOW with its length, and leaves OUT as it was (R79). -/
theorem emitOut_of_long (hl : s.cfg.outCap < out.length) :
    s.emitOut out = .error (.raise (.programmerError (.outOverflow out.length))) := State.emitOut_eq_error.2 ⟨hl, rfl⟩

theorem exec_of_long (hl : s.cfg.outCap < out.length) (h : body i s = s.emitOut out) :
    exec i s = .next (s.failed 0x07 3 (BitVec.ofNat 32 out.length)) :=
  exec_of_body_raise (h.trans (emitOut_of_long hl))

end

/-- Settles O31: each command stages the string the statement names, which does not fit. -/
theorem outputLongerThanBufferRaises : Obligations.OutputLongerThanBufferRaises := by
  intro s
  refine ⟨fun h => exec_of_long (out := encDl s.dl) h rfl, fun h => exec_of_long (out := encTh s.th) h rfl,
    fun h => ?packAh, fun kind rl hrow hss hcount h => ?packOh, fun str hin h => ?addCrc, fun str hin h => ?stripCrc,
    fun rs hrs hin => ?buildRead, fun dl th ah objs hobjs hin h => ?parseFrame⟩
  case packAh =>
    have hexec := exec_of_long (i := .packAh) h (congrArg s.emitOut (encAh_eq s.cfg s.ah))
    rw [hexec, wireAh_length]
    split_ifs <;> rfl
  case packOh =>
    have hlen := wireObj_length (o := { hdr := s.oh, kind := kind, rl := rl }) hrow
    have henc := encOh_eq_ok.2 ⟨kind, rl, hrow, hss, hcount, rfl⟩
    rw [← hlen] at h ⊢
    exact exec_of_long h (by rw [body, henc]; rfl)
  case addCrc => exact exec_of_long h (by rw [body, State.checkIn_eq_ok.2 hin, ok_bind])
  case stripCrc =>
    exact exec_of_long h (by rw [body, State.checkIn_eq_ok.2 hin, ok_bind, stripAndVerify_addChecksums]; rfl)
  case buildRead =>
    intro out h
    have hranges : s.readRanges = .ok rs :=
      State.readRanges_eq_ok.2 ⟨_, hin, by rw [wireRanges_length]; omega, (rangesOf_wireRanges rs).symm⟩
    exact exec_of_long h (by rw [body, hranges, ok_bind, buildReadRequest_ok _ _ _ _ _ hrs]; rfl)
  case parseFrame =>
    rw [← records_length] at h ⊢
    refine exec_of_body_raise (e := .programmerError (.outOverflow _)) ?_
    rw [body, State.checkIn_eq_ok.2 hin, ok_bind, parseFrame_frameEncode dl th ah hobjs, raises_ok, ok_bind,
      emitOut_of_long h, error_bind]

end Sys2Proof.Machine
end

section
/-! PROOFS. The header commands where they succeed (41_header_codec.md R101 to R110): what PACK outputs, what UNPACK
reads, RANGE_LEN, and the round trip of a header through the two buffers. -/

namespace Sys2Proof.Machine

variable {s s' t : State} {i : Instr} {p q out : List Byte}

/-! ### PACK -/

/-- A command that stages a string whose length fits OUT_LEN outputs it and completes (R79), whether or not the
configuration is legal. -/
theorem exec_emits_of_length (hlen : out.length < 65536) (h : body i s = .ok (s.setOutput out)) :
    ∃ t, exec i s = .next t ∧ s.completed.emits t out :=
  ⟨_, exec_of_body_ok h, s.completed.setOutput_emits out hlen⟩

theorem wireAh_length_le (c : Cfg) (h : AhHeader) : (wireAh c h).length ≤ 4 := encAh_eq c h ▸ encAh_length_le c h

/-- Settles O8: the 8 bytes fit OUT. -/
theorem packDlOutputsTheHeader : Obligations.PackDlOutputsTheHeader := by
  intro s hcap
  exact exec_emits_of_length (out := wireDl s.dl) (by decide : 8 < 65536) (body_packDl_ok.2 ⟨hcap, rfl⟩)

/-- Settles O10: the byte fits OUT. -/
theorem packThOutputsTheHeader : Obligations.PackThOutputsTheHeader := by
  intro s hcap
  exact exec_emits_of_length (out := wireTh s.th) (by decide : 1 < 65536) (body_packTh_ok.2 ⟨hcap, rfl⟩)

/-- Settles O12: the encoder gives the wire's 2 or 4 bytes. -/
theorem packAhOutputsTheHeader : Obligations.PackAhOutputsTheHeader := by
  intro s hcap
  have hlen := wireAh_length_le s.cfg s.ah
  exact exec_emits_of_length (by omega) (body_packAh_ok.2 ⟨(encAh_eq s.cfg s.ah).symm ▸ hcap, by rw [encAh_eq]⟩)

/-- Settles O14: the encoder gives the wire's bytes of a header whose values fit, 11 at most. -/
theorem packOhOutputsTheHeader : Obligations.PackOhOutputsTheHeader := by
  intro s kind rl hrow hss hcount hcap
  have henc := encOh_eq_ok.2 ⟨kind, rl, hrow, hss, hcount, rfl⟩
  have hlen := wireObj_length (o := { hdr := s.oh, kind := kind, rl := rl }) hrow
  have hmax := encOh_length_le henc
  exact exec_emits_of_length (by omega) (body_packOh_ok.2 ⟨_, henc, hlen ▸ hcap, rfl⟩)

/-! ### UNPACK -/

/-- Where the bytes before the header are as many as IN_OFF says, the header is at an offset within the input. -/
theorem inOff_le_append (ho : s.inOff.toNat = p.length) (str : List Byte) : s.inOff.toNat ≤ (p ++ str).length := by
  rw [ho, List.length_append]
  exact Nat.le_add_right ..

/-- Settles O9: the decoder reads the 8 bytes at IN_OFF. -/
theorem unpackDlReadsTheHeader : Obligations.UnpackDlReadsTheHeader := by
  intro s p q h hin ho
  rw [List.append_assoc] at hin
  exact exec_of_body_ok
    (body_unpackDl_ok.2 ⟨_, hin, inOff_le_append ho _, h, 8, ho ▸ decDl_wireDl p q h, rfl⟩)

theorem exec_unpackTh_wireTh {h : ThHeader} (hin : s.inputIs (p ++ wireTh h ++ q)) (ho : s.inOff.toNat = p.length) :
    exec .unpackTh s = .next ((s.setTh h).setConsumed 1).succeed := by
  rw [List.append_assoc] at hin
  exact exec_of_body_ok
    (body_unpackTh_ok.2 ⟨_, hin, inOff_le_append ho _, h, 1, ho ▸ decTh_wireTh p q h, rfl⟩)

/-- Settles O11: every byte is the wire byte of the header it decodes to. -/
theorem unpackThReadsTheHeader : Obligations.UnpackThReadsTheHeader := by
  intro s p q b hin ho
  have hwire : wireTh (thOfByte b) = [b] := congrArg (fun x => [x]) (byte_thOfByte b)
  have hin' : s.inputIs (p ++ wireTh (thOfByte b) ++ q) := by
    rw [hwire, List.append_assoc]
    exact hin
  exact ⟨thOfByte b, hwire, exec_unpackTh_wireTh hin' ho⟩

theorem exec_unpackAh_wireAh {h : AhHeader} (hin : s.inputIs (p ++ wireAh s.cfg h ++ q))
    (ho : s.inOff.toNat = p.length) :
    exec .unpackAh s = .next ((s.setAh (h.carried s.cfg)).setConsumed (wireAh s.cfg h).length).succeed := by
  rw [List.append_assoc] at hin
  exact exec_of_body_ok
    (body_unpackAh_ok.2 ⟨_, hin, inOff_le_append ho _, _, _, ho ▸ decAh_wireAh s.cfg p q h, rfl⟩)

/-- Settles O13: the header is read as the wire carries it, with the length it has there. -/
theorem unpackAhReadsTheHeader : Obligations.UnpackAhReadsTheHeader := by
  intro s p q h hin ho
  have hexec := exec_unpackAh_wireAh hin ho
  rw [wireAh_length, AhHeader.carried] at hexec
  refine ⟨fun hc => ?_, fun hc => ?_⟩
  · rw [hexec, if_pos hc, if_pos hc]
    rfl
  · rw [hexec, if_neg hc, if_neg hc]
    rfl

/-- Settles O15: the decoder reads a canonical header's bytes at IN_OFF. -/
theorem unpackOhReadsTheHeader : Obligations.UnpackOhReadsTheHeader := by
  intro s p q o hcanon hin ho
  rw [List.append_assoc] at hin
  exact exec_of_body_ok
    (body_unpackOh_ok.2 ⟨_, hin, inOff_le_append ho _, o, _, ho ▸ decOh_wireObj hcanon p q, rfl⟩)

/-- Settles O16: RLEN is the only result. -/
theorem rangeLenWritesKindAndLength : Obligations.RangeLenWritesKindAndLength :=
  fun _ _ _ hrow => exec_rangeLen_of_some hrow

/-! ### The round trip -/

/-- A command that ends with ERR = 0 has run its pseudocode to the end (60_exceptions.md R128). -/
theorem body_ok_of_exec (h : exec i s = .next t) (he : t.err = 0) : ∃ u, body i s = .ok u ∧ t = u.succeed := by
  obtain hok | ⟨e, -, rfl⟩ := exec_next h
  · exact hok
  · exact absurd he e.code_ne_zero

/-- A host that has copied a command's output into IN has the string the command staged as its input, with nothing
before and after it (70_reset_and_hazards.md R156). -/
theorem inputIs_of_fedFrom (hlen : out.length < 65536) (h : s'.fedFrom (s.setOutput out).succeed) :
    s'.inputIs ([] ++ out ++ []) := by
  obtain ⟨hout, hread, -⟩ := s.setOutput_emits out hlen
  obtain ⟨hcfg, hin, hcap, hcopy⟩ := h
  rw [State.succeed_outLen, hout] at hcap hcopy
  rw [List.append_nil, List.nil_append]
  refine ⟨by rw [hin, State.succeed_outLen, hout], hcfg ▸ hcap, fun j hj => ?_⟩
  rw [hcopy j hj, State.succeed_outBuf, hread, if_pos hj]

/-- What UNPACK_AH restores after PACK_AH: the header as the wire carries it. -/
theorem exec_unpackAh_of_packAh (hfed : s'.fedFrom t) (ho : s'.inOff = 0) (h : exec .packAh s = .next t)
    (he : t.err = 0) :
    exec .unpackAh s' = .next { s'.completed with ah := s.ah.carried s.cfg, consumed := t.outLen } := by
  have hlen := wireAh_length_le s.cfg s.ah
  obtain ⟨u, hu, rfl⟩ := body_ok_of_exec h he
  obtain ⟨-, rfl⟩ := body_packAh_ok.1 hu
  rw [encAh_eq] at hfed ⊢
  have hin := inputIs_of_fedFrom (by omega) hfed
  have hcfg : s'.cfg = s.cfg := hfed.1
  rw [← hcfg] at hin ⊢
  exact exec_unpackAh_wireAh hin (congrArg BitVec.toNat ho)

/-- An object header that PACK_OH accepts and whose unused values are 0 is canonical (R98, R110). -/
theorem canonicalObj_of_packed {c : Cfg} {h : OhHeader} {kind : RangeKind} {rl : Nat}
    (hrow : rangeLen c h.qual = some (kind, rl)) (henc : encOh c h = .ok out) (hcount : kind = .count → h.b = 0)
    (hnone : kind = .none → h.a = 0 ∧ h.b = 0) :
    canonicalObj c { hdr := h, kind := kind, rl := rl } ∧ out = wireObj { hdr := h, kind := kind, rl := rl } := by
  obtain ⟨kind', rl', hrow', hss, hfits, rfl⟩ := encOh_eq_ok.1 henc
  obtain ⟨rfl, rfl⟩ := Prod.mk.inj (Option.some.inj (hrow.symm.trans hrow'))
  refine ⟨⟨hrow, ?_⟩, rfl⟩
  cases kind with
  | none => exact hnone rfl
  | startStop => exact hss rfl
  | count => exact ⟨hfits rfl, hcount rfl⟩

/-- Settles O46: the packed bytes are the whole input of UNPACK, and it reads the header they are the wire form of. -/
theorem unpackRestoresWhatPackWrote : Obligations.UnpackRestoresWhatPackWrote := by
  intro s t s' hfed ho
  have ho' : s'.inOff.toNat = ([] : List Byte).length := congrArg BitVec.toNat ho
  refine ⟨fun h he => ?dl, fun h he => ?th, fun h he hc => ?iin, fun h he hc => ?noIin,
    fun kind rl h he hrow hcount hnone => ?oh⟩
  case dl =>
    obtain ⟨u, hu, rfl⟩ := body_ok_of_exec h he
    obtain ⟨-, rfl⟩ := body_packDl_ok.1 hu
    have hin := inputIs_of_fedFrom (out := wireDl s.dl) (by decide : 8 < 65536) hfed
    exact unpackDlReadsTheHeader s' [] [] s.dl hin ho'
  case th =>
    obtain ⟨u, hu, rfl⟩ := body_ok_of_exec h he
    obtain ⟨-, rfl⟩ := body_packTh_ok.1 hu
    have hin := inputIs_of_fedFrom (out := wireTh s.th) (by decide : 1 < 65536) hfed
    exact exec_unpackTh_wireTh hin ho'
  case iin => rw [exec_unpackAh_of_packAh hfed ho h he, AhHeader.carried, if_pos hc]
  case noIin => rw [exec_unpackAh_of_packAh hfed ho h he, AhHeader.carried, if_neg hc]
  case oh =>
    obtain ⟨u, hu, rfl⟩ := body_ok_of_exec h he
    obtain ⟨out, henc, -, rfl⟩ := body_packOh_ok.1 hu
    have hmax := encOh_length_le henc
    obtain ⟨hcanon, rfl⟩ := canonicalObj_of_packed hrow henc hcount hnone
    have hin := inputIs_of_fedFrom (by omega) hfed
    have hcfg : s'.cfg = s.cfg := hfed.1
    rw [unpackOhReadsTheHeader s' [] [] _ (hcfg ▸ hcanon) hin ho', ← wireObj_length hcanon.1]
    rfl

end Sys2Proof.Machine
end

section
/-! PROOFS. The header commands where they raise (41_header_codec.md R91, R93, R98, R100, R111): an offset outside the
input, a cut header, wrong start bytes, a range value too wide for its field; and the same errors of the decoders as
PARSE_FRAME reports them (42_frame.md R119). -/

namespace Sys2Proof.Machine

variable {s : State} {i : Instr} {c : Cfg} {str u : List Byte} {o n avail : Nat} {e : CmdError}

/-! ### The commands report their codec's error -/

/-- Every UNPACK command calls `UnpackInput` before anything else that can stop it (R100). -/
theorem body_of_unpackInput_error {r : Stop} (hi : readsInOff i = true) (h : s.unpackInput = .error r) :
    body i s = .error r := by
  cases i with
  | unpackDl | unpackTh | unpackAh | unpackOh => rw [body, h, error_bind]
  | crc16 | addCrc | stripCrc | packDl | packTh | packAh | packOh | rangeLen | buildRead | parseFrame => cases hi

/-- Settles O23: `UnpackInput` raises IN_OFF_RANGE, and the command stops as it does. -/
theorem offsetBeyondInputRaises : Obligations.OffsetBeyondInputRaises := by
  intro i s str hi hin hoff
  have hunpack : s.unpackInput = .error (.raise (.programmerError (.inOffRange s.inOff.toNat))) := by
    rw [State.unpackInput, State.checkIn_eq_ok.2 hin, ok_bind, if_pos hoff]
  rw [exec_of_body_raise (body_of_unpackInput_error hi hunpack), State.raiseError_eq_failed, ← BitVec.ofNat_toNat]
  rfl

/-- An UNPACK command reports the error of its decoder `dec`, whatever it does with a decoded header. -/
theorem exec_of_decode_error {α : Type} {dec : List Byte → Nat → Except CmdError α} {put : α → Except Stop State}
    (hbody : body i s = s.unpackInput >>= fun x => raises (dec x.1 x.2) >>= put) (hin : s.inputIs str)
    (ho : s.inOff.toNat ≤ str.length) (h : dec str s.inOff.toNat = .error e) : exec i s = .next (s.raiseError e) := by
  refine exec_of_body_raise ?_
  rw [hbody, State.unpackInput_eq_ok.2 ⟨hin, rfl, ho⟩, ok_bind, h, raises_error, error_bind]

theorem exec_packOh_error (h : encOh s.cfg s.oh = .error e) : exec .packOh s = .next (s.raiseError e) :=
  exec_of_body_raise (by rw [body, h, raises_error, error_bind])

/-- PARSE_FRAME of a framed string reports what parsing the unframed one raises (42_frame.md R114, R119). -/
theorem exec_parseFrame_error (hin : s.inputIs (frameEncode s.cfg u)) (h8 : 8 ≤ u.length)
    (h : parseUnframed s.cfg u = .error e) : exec .parseFrame s = .next (s.raiseError e) := by
  have hparse : parseFrame s.cfg (frameEncode s.cfg u) = .error e := by
    rw [parseFrame, frameDecode_frameEncode s.cfg fun _ => h8, ok_bind, h]
  refine exec_of_body_raise ?_
  rw [body, State.checkIn_eq_ok.2 hin, ok_bind, hparse, raises_error, error_bind]

/-! ### A range value too wide for its field -/

/-- PACK_OH reports the error of the range field that its qualifier selects (R98). -/
theorem exec_packOh_range_error {kind : RangeKind} {rl : Nat} (hrow : rangeLen s.cfg s.oh.qual = some (kind, rl))
    (h : encRange kind rl s.oh.a s.oh.b = .error e) : exec .packOh s = .next (s.raiseError e) := by
  refine exec_packOh_error ?_
  rw [encOh, rangeLenAt_eq_ok.2 hrow, ok_bind]
  dsimp only
  rw [h, error_bind]

/-- Settles O27: the range field's encoder checks OH_A, and then OH_B where the kind has one. -/
theorem wideRangeValueRaises : Obligations.WideRangeValueRaises := by
  intro s rl
  refine ⟨fun hrow ha => exec_packOh_range_error (e := .programmerError (.operandRange 0x44)) hrow ?_,
    fun hrow ha hb => exec_packOh_range_error (e := .programmerError (.operandRange 0x48)) hrow ?_,
    fun hrow ha => exec_packOh_range_error (e := .programmerError (.operandRange 0x44)) hrow ?_⟩
  · rw [encRange, fits_eq_error.2 ⟨ha, rfl⟩]
    rfl
  · rw [encRange, (fits_eq_ok (u := ())).2 ha, ok_bind, fits_eq_error.2 ⟨hb, rfl⟩]
    rfl
  · rw [encRange, fits_eq_error.2 ⟨ha, rfl⟩]
    rfl

/-! ### Wrong start bytes -/

theorem decDl_wrong_start (pre : List Byte) {q : List Byte} {b0 b1 : Byte} (hstart : ¬ (b0 = 0x05 ∧ b1 = 0x64))
    (hq : 6 ≤ q.length) : decDl (pre ++ b0 :: b1 :: q) pre.length = .error (.badStartBytes pre.length b0 b1) := by
  have h0 : byteAt (pre ++ b0 :: b1 :: q) pre.length = b0 := byteAt_append pre (b0 :: b1 :: q) 0
  have h1 : byteAt (pre ++ b0 :: b1 :: q) (pre.length + 1) = b1 := byteAt_append pre (b0 :: b1 :: q) 1
  have hneed : need (pre ++ b0 :: b1 :: q) pre.length 8 .dataLink = .ok () := by
    rw [need_eq_ok, length_append_sub, List.length_cons, List.length_cons]
    omega
  rw [decDl, hneed, ok_bind, h0, h1, if_neg hstart]

/-- BAD_START_BYTES holds the two bytes in its second word, the first one low (60_exceptions.md R132). -/
theorem raiseError_badStartBytes (s : State) (o : Nat) (b0 b1 : Byte) : s.raiseError (.badStartBytes o b0 b1) =
    s.failed 0x04 (BitVec.ofNat 32 o) (BitVec.ofNat 32 (b0.toNat + b1.toNat * 256)) := by
  have hinfo : (b1 ++ b0).setWidth 32 = BitVec.ofNat 32 (b0.toNat + b1.toNat * 256) := by
    rw [← BitVec.ofNat_toNat, toNat_append_byte, Nat.mul_comm]
  rw [State.raiseError_eq_failed, ← hinfo]
  rfl

/-- Settles O25: the decoder of the data-link header is the first to look at the bytes. -/
theorem wrongStartBytesRaise : Obligations.WrongStartBytesRaise := by
  intro s q b0 b1 hstart
  refine ⟨fun p hin ho hq => ?_, fun hq hin => ?_⟩
  · have hdec := decDl_wrong_start p hstart hq
    rw [← ho] at hdec
    rw [exec_of_decode_error (dec := decDl) rfl hin (inOff_le_append ho _) hdec, raiseError_badStartBytes,
      BitVec.ofNat_toNat]
  · have hlen : (b0 :: b1 :: q).length = q.length + 2 := rfl
    have hdec : decDl (b0 :: b1 :: q) 0 = .error (.badStartBytes 0 b0 b1) := decDl_wrong_start [] hstart (by omega)
    have hparse : parseUnframed s.cfg (b0 :: b1 :: q) = .error (.badStartBytes 0 b0 b1) := by
      rw [parseUnframed, if_neg (by omega), hdec, error_bind]
    rw [exec_parseFrame_error hin (by omega) hparse, raiseError_badStartBytes]
    rfl

/-! ### Cut headers -/

/-- TRUNCATED_HEADER holds kind, need and the bytes available in its second word, from the low byte up
(60_exceptions.md R130). -/
theorem raiseError_truncatedHeader (s : State) (o : Nat) (kind : HeaderKind) (avail : Nat) (hn : n < 256) :
    s.raiseError (.truncatedHeader o kind n avail) =
      s.failed 0x02 (BitVec.ofNat 32 o) (BitVec.ofNat 32 (kind.code + n * 256 + avail * 65536)) := by
  have hkind : kind.code < 256 := by cases kind <;> decide
  have hinfo : BitVec.ofNat 16 avail ++ BitVec.ofNat 8 n ++ BitVec.ofNat 8 kind.code =
      BitVec.ofNat 32 (kind.code + n * 256 + avail * 65536) := by
    apply BitVec.eq_of_toNat_eq
    rw [toNat_append_byte, toNat_append_byte]
    simp only [BitVec.toNat_ofNat]
    omega
  rw [State.raiseError_eq_failed, ← hinfo]
  rfl

theorem need_short {kind : HeaderKind} (ha : str.length - o = avail) (h : avail < n) :
    need str o n kind = .error (.truncatedHeader o kind n avail) := by
  subst ha
  exact need_eq_error.2 ⟨h, rfl⟩

theorem need_enough {kind : HeaderKind} (ha : str.length - o = avail) (h : n ≤ avail) : need str o n kind = .ok () :=
  need_eq_ok.2 (ha ▸ h)

section
variable (ha : str.length - o = avail)
include ha

theorem decDl_short (h : avail < 8) : decDl str o = .error (.truncatedHeader o .dataLink 8 avail) := by
  rw [decDl, need_short ha h, error_bind]

theorem decTh_short (h : avail < 1) : decTh str o = .error (.truncatedHeader o .transport 1 avail) := by
  rw [decTh, need_short ha h, error_bind]

theorem decAh_short (h : avail < 2) : decAh c str o = .error (.truncatedHeader o .application 2 avail) := by
  rw [decAh, need_short ha h, error_bind]

theorem decAh_cut_iin (h2 : 2 ≤ avail) (h4 : avail < 4) (hc : carriesIin c (byteAt str (o + 1))) :
    decAh c str o = .error (.truncatedHeader o .application 4 avail) := by
  rw [decAh, need_enough ha h2, ok_bind, if_pos (hasIin_iff.2 hc), need_short ha h4, error_bind]

theorem decOh_short (h : avail < 3) : decOh c str o = .error (.truncatedHeader o .object 3 avail) := by
  rw [decOh, need_short ha h, error_bind]

theorem decOh_cut_range {kind : RangeKind} {rl : Nat} (h3 : 3 ≤ avail)
    (hrow : rangeLen c (byteAt str (o + 2)) = some (kind, rl)) (h : avail < 3 + rl) :
    decOh c str o = .error (.truncatedHeader o .object (3 + rl) avail) := by
  rw [decOh, need_enough ha h3, ok_bind, rangeLenAt_eq_ok.2 hrow, ok_bind]
  dsimp only
  rw [need_short ha h, error_bind]

end

/-- A range field is at most 8 bytes long in both tables (30_encoding.md R66, R67). -/
theorem rangeLen_le {q : Byte} {kind : RangeKind} {rl : Nat} (h : rangeLen c q = some (kind, rl)) : rl ≤ 8 := by
  have := rangeLen_rows h
  omega

/-- An UNPACK command whose decoder finds the header cut reports IN_OFF and the bytes needed and available. -/
theorem exec_of_decode_truncated {α : Type} {dec : List Byte → Nat → Except CmdError α}
    {put : α → Except Stop State} {kind : HeaderKind}
    (hbody : body i s = s.unpackInput >>= fun x => raises (dec x.1 x.2) >>= put) (hn : n < 256) (hin : s.inputIs str)
    (ho : s.inOff.toNat ≤ str.length)
    (h : dec str s.inOff.toNat = .error (.truncatedHeader s.inOff.toNat kind n avail)) :
    exec i s = .next
      (s.failed 0x02 (s.inOff.setWidth 32) (BitVec.ofNat 32 (kind.code + n * 256 + avail * 65536))) := by
  rw [exec_of_decode_error hbody hin ho h, raiseError_truncatedHeader _ _ _ _ hn, BitVec.ofNat_toNat]

/-! ### Errors in a frame -/

/-- After a whole data-link header and a whole transport header the parser goes on with the application header at 9
(42_frame.md R119). -/
theorem parseUnframed_after_transport (dl : DlHeader) (th : ThHeader) {post : List Byte}
    (hu : u = wireDl dl ++ (wireTh th ++ post)) (h2 : 2 ≤ post.length) :
    parseUnframed c u = decAh c u 9 >>= fun x => parseObjects c u u.length (9 + x.2) >>= fun objs =>
      .ok { dl := dl, th := th, ah := x.1, objs := objs } := by
  have hlen : u.length = 9 + post.length := by
    rw [hu, List.length_append, List.length_append, ← Nat.add_assoc]
    rfl
  have hdl : decDl u 0 = .ok (dl, 8) := hu ▸ decDl_wireDl [] _ dl
  have hth : decTh u 8 = .ok (th, 1) := hu ▸ decTh_wireTh (wireDl dl) _ th
  rw [parseUnframed, if_neg (by omega), hdl, ok_bind]
  dsimp only
  rw [hth]
  rfl

/-- An application header whose function code asks for an IIN field that is not all there is cut (R97). -/
theorem parseUnframed_cut_iin (dl : DlHeader) (th : ThHeader) {ah : AhHeader} {r : List Byte}
    (hc : carriesIin c ah.fc) (hr : r.length < 2) :
    parseUnframed c (wireDl dl ++ wireTh th ++ [wireControl ah, ah.fc] ++ r) =
      .error (.truncatedHeader 9 .application 4 (2 + r.length)) := by
  have hpost : ([wireControl ah, ah.fc] ++ r).length = 2 + r.length := List.length_append
  have havail := length_append_sub (wireDl dl ++ wireTh th) ([wireControl ah, ah.fc] ++ r)
  have hdec := decAh_cut_iin (c := c) (o := 9) havail (by omega) (by omega) hc
  rw [hpost] at hdec
  rw [List.append_assoc _ _ r, parseUnframed_after_transport dl th (List.append_assoc ..) (by omega), hdec, error_bind]

/-- The object loop reports the error of the first header after good ones, at its offset (42_frame.md R119). -/
theorem parseObjects_error {objs : List ObjHeader} (h : ∀ o ∈ objs, canonicalObj c o) (pre : List Byte)
    {tail : List Byte} (htail : 1 ≤ tail.length) {n : Nat} (hn : objs.length < n)
    (hdec : decOh c (pre ++ objs.flatMap wireObj ++ tail) (pre ++ objs.flatMap wireObj).length = .error e) :
    parseObjects c (pre ++ objs.flatMap wireObj ++ tail) n pre.length = .error e := by
  induction objs generalizing pre n with
  | nil =>
    obtain ⟨n, rfl⟩ := Nat.exists_eq_succ_of_ne_zero (Nat.ne_of_gt hn)
    rw [List.flatMap_nil, List.append_nil] at hdec ⊢
    rw [parseObjects, if_pos (by rw [List.length_append]; omega), hdec, error_bind]
  | cons o objs ih =>
    obtain ⟨n, rfl⟩ := Nat.exists_eq_succ_of_ne_zero (Nat.ne_of_gt (Nat.zero_lt_of_lt hn))
    obtain ⟨ho, hobjs⟩ := List.forall_mem_cons.1 h
    have hlen : (wireObj o).length = 3 + o.rl := wireObj_length ho.1
    rw [List.flatMap_cons, ← List.append_assoc] at hdec ⊢
    have hrest := ih hobjs (pre ++ wireObj o) (Nat.lt_of_succ_lt_succ hn) hdec
    have hobj : decOh c (pre ++ wireObj o ++ objs.flatMap wireObj ++ tail) pre.length = .ok (o, 3 + o.rl) := by
      have := decOh_wireObj ho pre (objs.flatMap wireObj ++ tail)
      simpa only [List.append_assoc] using this
    rw [List.length_append, hlen] at hrest
    rw [parseObjects, if_pos (by simp only [List.length_append]; omega)]
    simp only [hobj, hrest, ok_bind, error_bind]

/-- The parser reports the error of the first bad object header, whatever good ones come before it
(60_exceptions.md R142). -/
theorem parseUnframed_object_error (dl : DlHeader) (th : ThHeader) (ah : AhHeader) {objs : List ObjHeader}
    (h : ∀ o ∈ objs, canonicalObj c o) {tail : List Byte} (htail : 1 ≤ tail.length)
    (hdec : decOh c (wireHeaders c dl th ah objs ++ tail) (wireHeaders c dl th ah objs).length = .error e) :
    parseUnframed c (wireHeaders c dl th ah objs ++ tail) = .error e := by
  have hu : wireHeaders c dl th ah objs ++ tail =
      wireDl dl ++ (wireTh th ++ (wireAh c ah ++ (objs.flatMap wireObj ++ tail))) := by
    simp only [wireHeaders, List.append_assoc]
  have hpre : (wireDl dl ++ wireTh th ++ wireAh c ah).length = 9 + (wireAh c ah).length := List.length_append
  have hah : decAh c (wireHeaders c dl th ah objs ++ tail) 9 = .ok (ah.carried c, (wireAh c ah).length) := by
    rw [hu, ← List.append_assoc]
    exact decAh_wireAh c (wireDl dl ++ wireTh th) _ ah
  have hn := wireObjs_length_ge h
  have hobjs : parseObjects c (wireHeaders c dl th ah objs ++ tail) (wireHeaders c dl th ah objs ++ tail).length
      (9 + (wireAh c ah).length) = .error e := by
    rw [← hpre]
    refine parseObjects_error h _ htail ?_ hdec
    rw [wireHeaders, List.length_append, List.length_append]
    omega
  have hpost : 2 ≤ (wireAh c ah ++ (objs.flatMap wireObj ++ tail)).length := by
    rw [List.length_append, wireAh_length]
    split_ifs <;> omega
  rw [parseUnframed_after_transport dl th hu hpost, hah, ok_bind, hobjs, error_bind]

theorem wireDl_append_length_ge (h : DlHeader) (post : List Byte) : 8 ≤ (wireDl h ++ post).length := by
  rw [List.length_append]
  exact Nat.le_add_right 8 _

/-- PARSE_FRAME reports the error of the first bad object header of a frame. -/
theorem exec_parseFrame_object_error {dl : DlHeader} {th : ThHeader} {ah : AhHeader} {objs : List ObjHeader}
    {tail : List Byte} (h : ∀ o ∈ objs, canonicalObj s.cfg o)
    (hin : s.inputIs (frameEncode s.cfg (wireHeaders s.cfg dl th ah objs ++ tail))) (htail : 1 ≤ tail.length)
    (hdec : decOh s.cfg (wireHeaders s.cfg dl th ah objs ++ tail) (wireHeaders s.cfg dl th ah objs).length =
      .error e) : exec .parseFrame s = .next (s.raiseError e) := by
  have hlen : 8 ≤ (wireHeaders s.cfg dl th ah objs ++ tail).length := by
    simp only [wireHeaders, List.append_assoc]
    exact wireDl_append_length_ge ..
  exact exec_parseFrame_error hin hlen (parseUnframed_object_error dl th ah h htail hdec)

/-- Settles O24: each decoder counts the bytes it needs before it reads them, in an UNPACK command and in the parser. -/
theorem cutHeaderRaisesTruncatedHeader : Obligations.CutHeaderRaisesTruncatedHeader := by
  intro s
  refine ⟨?unpack, ?frameObjects, fun dl th ah r hc hr hin => ?frameIin⟩
  case unpack =>
    intro str hin ho o avail
    refine ⟨fun h => ?dl, fun h => ?th, fun h => ?ah, fun h2 h4 hc => ?iin, fun h => ?oh,
      fun kind rl h3 hrow h => ?range⟩
    case dl => exact exec_of_decode_truncated (dec := decDl) rfl (by decide) hin ho (decDl_short rfl h)
    case th => exact exec_of_decode_truncated (dec := decTh) rfl (by decide) hin ho (decTh_short rfl h)
    case ah => exact exec_of_decode_truncated (dec := decAh s.cfg) rfl (by decide) hin ho (decAh_short rfl h)
    case iin => exact exec_of_decode_truncated (dec := decAh s.cfg) rfl (by decide) hin ho (decAh_cut_iin rfl h2 h4 hc)
    case oh => exact exec_of_decode_truncated (dec := decOh s.cfg) rfl (by decide) hin ho (decOh_short rfl h)
    case range =>
      have hrl := rangeLen_le hrow
      exact exec_of_decode_truncated (dec := decOh s.cfg) rfl (by omega) hin ho (decOh_cut_range rfl h3 hrow h)
  case frameObjects =>
    intro dl th ah objs tail hobjs hin pos
    have havail := length_append_sub (wireHeaders s.cfg dl th ah objs) tail
    refine ⟨fun h1 h3 => ?_, fun kind rl h3 hrow h => ?_⟩
    · rw [exec_parseFrame_object_error hobjs hin h1 (decOh_short havail h3),
        raiseError_truncatedHeader _ _ _ _ (by decide)]
      rfl
    · have hrl := rangeLen_le hrow
      have hqual := byteAt_append (wireHeaders s.cfg dl th ah objs) tail 2
      have hdec := decOh_cut_range havail h3 ((congrArg (rangeLen s.cfg) hqual).trans hrow) h
      rw [exec_parseFrame_object_error hobjs hin (by omega) hdec, raiseError_truncatedHeader _ _ _ _ (by omega)]
      rfl
  case frameIin =>
    have hlen : 8 ≤ (wireDl dl ++ wireTh th ++ [wireControl ah, ah.fc] ++ r).length := by
      simp only [List.append_assoc]
      exact wireDl_append_length_ge ..
    rw [exec_parseFrame_error hin hlen (parseUnframed_cut_iin dl th hc hr),
      raiseError_truncatedHeader _ _ _ _ (by decide)]
    rfl

/-! ### The document's qualifier table (30_encoding.md R66) -/

/-- Only three bits of a qualifier matter under DOC. -/
theorem rangeLenDoc_and_mask (q : Byte) : rangeLenDoc (q &&& 0x70) = rangeLenDoc q := by
  rw [rangeLenDoc, rangeLenDoc, BitVec.and_assoc, BitVec.and_self]

/-- The seven documented buckets with their length and kind. -/
theorem rangeLenDoc_rows : ∀ x ∈ [((0x00 : Byte), 2, (1 : BitVec 2)), (0x10, 4, 1), (0x20, 8, 1), (0x30, 1, 2),
    (0x40, 2, 2), (0x50, 4, 2), (0x60, 0, 0)], (rangeLenDoc x.1).map (fun p => (p.2, p.1.code)) = some x.2 := by
  decide

/-- An object header without the last byte of its range field, or of its qualifier where it has none, is cut. -/
theorem decOh_dropLast {g v q : Byte} {r : List Byte} {kind : RangeKind}
    (hrow : rangeLen c q = some (kind, r.length)) :
    ∃ n avail, decOh c ([g, v, q] ++ r).dropLast 0 = .error (.truncatedHeader 0 .object n avail) := by
  obtain rfl | ⟨r, b, rfl⟩ := r.eq_nil_or_concat
  · exact ⟨_, _, decOh_short rfl (by decide : 2 < 3)⟩
  · rw [List.concat_eq_append, ← List.append_assoc, List.dropLast_concat]
    have hlen : ([g, v, q] ++ r).length - 0 = 3 + r.length := List.length_append
    exact ⟨_, _, decOh_cut_range hlen (by omega) hrow (by rw [List.length_concat]; omega)⟩

/-- Settles O19: the table is read at the qualifier's three bits, bucket by bucket. -/
theorem docQualifierBuckets : Obligations.DocQualifierBuckets := by
  intro s hdoc
  have hmask (q : Byte) : rangeLen s.cfg q = rangeLenDoc (q &&& 0x70) := by
    rw [rangeLen, hdoc, rangeLenDoc_and_mask]
  refine ⟨fun m rl kind hbucket => ?_, fun hq => ?_⟩
  · obtain ⟨⟨k, n⟩, hlen, hpair⟩ := Option.map_eq_some_iff.1 (rangeLenDoc_rows _ hbucket)
    obtain ⟨rfl, rfl⟩ := Prod.mk.inj hpair
    have hrow (q : Byte) (hq : q &&& 0x70 = m) : rangeLen s.cfg q = some (k, n) := (hmask q).trans (hq ▸ hlen)
    refine ⟨fun hq => exec_rangeLen_of_some (hrow _ hq), fun g v q r hq hr hin hoff => ?_⟩
    obtain ⟨n', avail, hdec⟩ := decOh_dropLast (g := g) (v := v) ((hrow q hq).trans (by rw [hr]))
    have ho : s.inOff.toNat = 0 := congrArg BitVec.toNat hoff
    rw [← ho] at hdec
    exact ⟨_, _, exec_of_decode_error (dec := decOh s.cfg) rfl hin (ho ▸ Nat.zero_le _) hdec⟩
  · have hnone : rangeLen s.cfg s.oh.qual = none := by rw [hmask, hq]; rfl
    rw [exec_rangeLen_of_none hnone]
    rfl

end Sys2Proof.Machine
end

section
/-! PROOFS. The frame commands (42_frame.md): the lengths of framed frames (R114) and the single-bit corruption of one
(R126), what PARSE_FRAME reads and rejects, what BUILD_READ outputs and rejects, and the round trip of a request through
the two buffers (R124). -/

namespace Sys2Proof.Machine

variable {s s' t : State} {c : Cfg} {f u : List Byte}

/-! ### Framing -/

/-- Under FLAT the whole frame is one framed string (R112). -/
theorem frameEncode_flat (h : c.hdrBlock = .flat) : frameEncode c u = addChecksums c u := by
  rw [frameEncode, h]

/-- Under SEPARATE the header is a framed string of its own (R112). -/
theorem frameEncode_separate (h : c.hdrBlock = .separate) :
    frameEncode c u = addChecksums c (u.take 8) ++ addChecksums c (u.drop 8) := by
  rw [frameEncode, h]

/-- Settles O45: the lengths are those of the framed strings, and framing is undone. -/
theorem framedLengths : Obligations.FramedLengths := by
  intro c u
  refine ⟨fun hflat => ⟨frameEncode_flat hflat, ?_, frameDecode_frameEncode c fun hsep => ?_⟩,
    fun hsep h8 => ⟨frameEncode_separate hsep, ?_, frameDecode_frameEncode c fun _ => h8⟩⟩
  · rw [frameEncode_flat hflat, addChecksums_length]
  · rw [hflat] at hsep
    cases hsep
  · rw [frameEncode_separate hsep, List.length_append, addChecksums_length, addChecksums_length, List.length_take,
      List.length_drop, Nat.min_eq_left h8, Nat.add_assoc 10]

/-- R86 for a frame: the part that holds the flipped bit does not verify, and the part before it still does. -/
theorem frameDecode_flipBit (hp : c.poly ≠ 0) {j : Nat} (b : Fin 8) (hj : j < f.length)
    (h : frameDecode c f = .ok u) :
    ∃ n ex rx, frameDecode c (flipBit f j b) = .error (.checksumMismatch n ex rx) := by
  unfold frameDecode at h ⊢
  rw [flipBit_length]
  cases hb : c.hdrBlock with
  | flat =>
    rw [hb] at h
    exact stripAndVerify_flipBit hp b hj h
  | separate =>
    rw [hb] at h
    dsimp only at h ⊢
    split_ifs at h with hshort
    rw [if_neg hshort]
    obtain ⟨front, rest, rfl, h10⟩ : ∃ front rest, f = front ++ rest ∧ front.length = 10 :=
      ⟨f.take 10, f.drop 10, (List.take_append_drop ..).symm, by rw [List.length_take]; omega⟩
    rw [List.take_left' h10, List.drop_left' h10] at h
    obtain ⟨hdr, hhdr, h⟩ := bind_eq_ok.1 h
    obtain ⟨data, hdata, -⟩ := bind_eq_ok.1 h
    by_cases hfront : j < front.length
    · obtain ⟨n, ex, rx, hn⟩ := stripAndVerify_flipBit hp b hfront hhdr
      exact ⟨n, ex, rx, by
        rw [flipBit_append_left hfront, List.take_left' ((flipBit_length ..).trans h10), hn, error_bind]⟩
    · obtain ⟨i, rfl⟩ := Nat.exists_eq_add_of_le (Nat.le_of_not_lt hfront)
      have hi : i < rest.length := by rw [List.length_append] at hj; omega
      obtain ⟨n, ex, rx, hn⟩ := stripAndVerify_flipBit hp b hi hdata
      exact ⟨n, ex, rx, by
        rw [flipBit_append_right, List.take_left' h10, List.drop_left' h10, hhdr, ok_bind, hn, error_bind]⟩

/-! ### The input string -/

theorem inputIs_unique {str str' : List Byte} (h : s.inputIs str) (h' : s.inputIs str') : str = str' :=
  Except.ok.inj ((State.checkIn_eq_ok.2 h).symm.trans (State.checkIn_eq_ok.2 h'))

/-! ### PARSE_FRAME -/

/-- PARSE_FRAME reports what `ParseFrame` raises (42_frame.md R121). -/
theorem exec_parseFrame_raises {e : CmdError} (hin : s.inputIs f) (h : parseFrame s.cfg f = .error e) :
    exec .parseFrame s = .next (s.raiseError e) :=
  exec_of_body_raise (by rw [body, State.checkIn_eq_ok.2 hin, ok_bind, h, raises_error, error_bind])

/-- A successful PARSE_FRAME had an accepted frame as its input. -/
theorem parseFrame_of_exec (hin : s.inputIs f) (h : exec .parseFrame s = .next t) (he : t.err = 0) :
    ∃ p, parseFrame s.cfg f = .ok p := by
  obtain ⟨u, hu, rfl⟩ := body_ok_of_exec h he
  obtain ⟨g, hg, p, hp, -⟩ := body_parseFrame_ok.1 hu
  exact ⟨p, inputIs_unique hin hg ▸ hp⟩

/-- Settles O49: the CRCs are checked before anything else, and one of them does not match. -/
theorem parseFrameDetectsEveryBitFlip : Obligations.ParseFrameDetectsEveryBitFlip := by
  intro s t s' f j b hc hin h he hcfg hj hin'
  obtain ⟨hpoly, -⟩ := cfg_bounds hc
  obtain ⟨p, hp⟩ := parseFrame_of_exec hin h he
  obtain ⟨u, hu, -⟩ := bind_eq_ok.1 hp
  obtain ⟨n, ex, rx, hn⟩ := frameDecode_flipBit hpoly b hj hu
  have hparse : parseFrame s'.cfg (flipBit f j b) = .error (.checksumMismatch n ex rx) := by
    rw [hcfg, parseFrame, hn, error_bind]
  exact ⟨_, _, exec_parseFrame_raises hin' hparse⟩

/-- Settles O30: the parser looks at the length before the headers, and under SEPARATE before the CRCs. -/
theorem shortFrameRaises : Obligations.ShortFrameRaises := by
  intro s
  refine ⟨fun u hlen h8 hin => ?unframed, fun f hsep hlen hin => ?framed⟩
  case unframed =>
    have hparse : parseFrame s.cfg (frameEncode s.cfg u) = .error (.frameTooShort u.length 11) := by
      rw [parseFrame, frameDecode_frameEncode s.cfg h8, ok_bind, parseUnframed, if_pos hlen]
    exact exec_parseFrame_raises hin hparse
  case framed =>
    have hparse : parseFrame s.cfg f = .error (.frameTooShort f.length 10) := by
      rw [parseFrame, frameDecode, hsep]
      dsimp only
      rw [if_pos hlen, error_bind]
    exact exec_parseFrame_raises hin hparse

theorem records_eq {objs : List ObjHeader} (h : ∀ o ∈ objs, canonicalObj c o) :
    objs.flatMap record = objs.flatMap wireRecord :=
  List.flatMap_congr fun o ho => record_eq (h o ho).1

theorem wireRecord_length (o : ObjHeader) : (wireRecord o).length = 12 := by
  rw [wireRecord, List.length_append, List.length_append, wireLe_length, wireLe_length]
  rfl

theorem wireRecords_length (objs : List ObjHeader) : (objs.flatMap wireRecord).length = 12 * objs.length := by
  simp [List.length_flatMap, wireRecord_length, Nat.mul_comm]

/-- What PARSE_FRAME does with a frame of headers: it writes the headers, the count and the records of the objects
(42_frame.md R119 to R121). -/
theorem exec_parseFrame_wireHeaders {dl : DlHeader} {th : ThHeader} {ah : AhHeader} {objs : List ObjHeader}
    (h : ∀ o ∈ objs, canonicalObj s.cfg o) (hin : s.inputIs (frameEncode s.cfg (wireHeaders s.cfg dl th ah objs)))
    (hcap : 12 * objs.length ≤ s.cfg.outCap) :
    exec .parseFrame s = .next (State.setOutput { s.completed with
      dl := dl, th := th, ah := ah.carried s.cfg, objCount := BitVec.ofNat 16 objs.length }
      (objs.flatMap wireRecord)) := by
  rw [← records_length] at hcap
  rw [← records_eq h]
  exact exec_of_body_ok (body_parseFrame_ok.2 ⟨_, hin, _, parseFrame_frameEncode dl th ah h, hcap, rfl⟩)

/-- In a legal configuration the records of every frame that fits IN fit OUT (00_scope.md R13). -/
theorem records_fit {dl : DlHeader} {th : ThHeader} {ah : AhHeader} {objs : List ObjHeader} (hc : s.cfg.legal = true)
    (h : ∀ o ∈ objs, canonicalObj s.cfg o) (hin : s.inputIs (frameEncode s.cfg (wireHeaders s.cfg dl th ah objs))) :
    12 * objs.length ≤ s.cfg.outCap := by
  obtain ⟨-, -, -, -, -, -, hrecords⟩ := cfg_bounds hc
  obtain ⟨-, hlen, -⟩ := hin
  have hobjs := parseFrame_objs_length_le (parseFrame_frameEncode dl th ah h)
  dsimp only at hobjs
  omega

/-- Settles O18: the parser reads the headers back, and R13 leaves room for the records. -/
theorem parseFrameReadsEveryFrame : Obligations.ParseFrameReadsEveryFrame := by
  intro s dl th ah objs hc hobjs hiin hin
  have hfits := records_fit hc hobjs hin
  have hcap := outCap_le_of_legal hc
  have hcarried : ah.carried s.cfg = ah := by
    unfold AhHeader.carried
    split_ifs with hcar
    · rfl
    · rw [← hiin hcar]
  have hlen : (objs.flatMap wireRecord).length < 65536 := by rw [wireRecords_length]; omega
  have hexec := exec_parseFrame_wireHeaders hobjs hin hfits
  rw [hcarried] at hexec
  exact ⟨_, hexec, State.setOutput_emits _ _ hlen⟩

/-- Settles O48: the headers alone are a frame of no objects, unless the function code asks for an IIN field. -/
theorem bareHeadersParseToNoObjects : Obligations.BareHeadersParseToNoObjects := by
  intro s dl th ah hin
  refine ⟨fun hc => ?_, fun hc => ?_⟩
  · have hu : wireHeaders s.cfg dl th ah [] = wireDl dl ++ wireTh th ++ [wireControl ah, ah.fc] := by
      rw [wireHeaders, wireAh, if_neg hc, List.append_nil, List.flatMap_nil, List.append_nil]
    rw [exec_parseFrame_wireHeaders (objs := []) nofun (hu ▸ hin) (Nat.zero_le _), AhHeader.carried, if_neg hc]
    rfl
  · have hparse := parseUnframed_cut_iin (r := []) dl th hc (by decide)
    rw [List.append_nil] at hparse
    exact exec_parseFrame_error hin (by rw [List.append_assoc]; exact wireDl_append_length_ge ..) hparse

/-! ### BUILD_READ -/

theorem readRanges_wireRanges {rs : List ReadRange} (hin : s.inputIs (wireRanges rs)) : s.readRanges = .ok rs :=
  State.readRanges_eq_ok.2 ⟨_, hin, by rw [wireRanges_length]; omega, (rangesOf_wireRanges rs).symm⟩

/-- Settles O17: the builder makes the wire's frame, of 292 bytes at most. -/
theorem buildReadOutputsTheFramedRequest : Obligations.BuildReadOutputsTheFramedRequest := by
  intro s rs hrs hin out hcap
  have hbuild := buildReadRequest_ok s.cfg s.dl.src s.dl.dest s.ah.seq s.th.seq hrs
  have hlen := buildReadRequest_length_le hbuild
  refine exec_emits_of_length (hlen.trans_lt (by decide)) ?_
  rw [body, readRanges_wireRanges hin, ok_bind, hbuild, raises_ok, ok_bind]
  exact State.emitOut_eq_ok.2 ⟨hcap, rfl⟩

theorem rangesOf_length : ∀ str : List Byte, (rangesOf str).length = str.length / 4
  | _ :: _ :: _ :: _ :: str => by
    rw [rangesOf, List.length_cons, rangesOf_length str]
    simp only [List.length_cons]
    omega
  | [] | [_] | [_, _] | [_, _, _] => by simp [rangesOf]

/-- Settles O29: the list's shape is checked first, and then LEN. -/
theorem buildReadRejectsBadLists : Obligations.BuildReadRejectsBadLists := by
  intro s str hin
  have ⟨hstr, _, _⟩ := hin
  refine ⟨fun h4 => ?shape, fun k hk h50 => ?len⟩
  case shape =>
    have hranges : s.readRanges = .error (.raise (.programmerError (.rangeListShape str.length))) := by
      rw [State.readRanges, State.checkIn_eq_ok.2 hin, ok_bind, if_pos h4]
    have hbody : body .buildRead s = .error (.raise (.programmerError (.rangeListShape str.length))) := by
      rw [body, hranges, error_bind]
    rw [exec_of_body_raise hbody, State.raiseError_eq_failed, ← hstr, ← BitVec.ofNat_toNat]
    rfl
  case len =>
    have hranges : s.readRanges = .ok (rangesOf str) := State.readRanges_eq_ok.2 ⟨str, hin, by omega, rfl⟩
    have hcount : (rangesOf str).length = k := by rw [rangesOf_length]; omega
    have hlen := wireReadData_length s.cfg s.ah.seq s.th.seq (rangesOf str)
    have hbuild := buildReadRequest_eq s.cfg s.dl.src s.dl.dest s.ah.seq s.th.seq (rangesOf str)
    rw [if_pos (by omega), hlen, hcount] at hbuild
    exact exec_of_body_raise (i := .buildRead) (by rw [body, hranges, ok_bind, hbuild, raises_error, error_bind])

/-! ### Build, then parse -/

/-- The object header that a range's five bytes are. -/
def ReadRange.obj (r : ReadRange) : ObjHeader := { hdr := r.header, kind := .startStop, rl := 2 }

/-- The application header of a READ request (42_frame.md R116). -/
def readAh (c : Cfg) (aseq : BitVec 4) : AhHeader :=
  { fir := true, fin := true, con := false, uns := false, seq := aseq, fc := c.fcRead, iin := 0 }

/-- A byte as a little-endian field of n + 1 bytes. -/
theorem wireLe_byte (b : Byte) (n : Nat) : wireLe (b.setWidth 32) (n + 1) = b :: List.replicate n 0x00 := by
  rw [wireLe, List.range_succ_eq_map, List.map_cons, List.map_map, List.cons_eq_cons]
  refine ⟨by simp [BitVec.extractLsb'_setWidth_of_le], ?_⟩
  rw [List.eq_replicate_iff]
  refine ⟨by simp, fun x hx => ?_⟩
  obtain ⟨j, -, rfl⟩ := List.mem_map.1 hx
  ext i hi
  have hhigh : b.getLsbD (8 * (j + 1) + i) = false := BitVec.getLsbD_of_ge _ _ (by omega)
  simp [hhigh]

/-- A range's object header is canonical: qualifier 0x00 is start/stop with two bytes in both tables (R116). -/
theorem canonicalObj_readRange (c : Cfg) (r : ReadRange) : canonicalObj c r.obj := by
  have hrow : rangeLen c 0x00 = some (.startStop, 2) := by unfold rangeLen; cases c.qualMap <;> rfl
  have hfits (b : Byte) : (b.setWidth 32).toNat < 2 ^ (8 * (2 / 2)) := by have := b.isLt; simp; omega
  exact ⟨hrow, hfits r.start, hfits r.stop⟩

theorem wireObj_readRange (r : ReadRange) : wireObj r.obj = [r.group, r.var, 0x00, r.start, r.stop] := by
  have hbyte (b : Byte) : wireLe (b.setWidth 32) (2 / 2) = [b] := wireLe_byte b 0
  simp only [wireObj, wireRange, ReadRange.obj, ReadRange.header, hbyte]
  rfl

theorem wireReadObjs_eq (rs : List ReadRange) : wireReadObjs rs = (rs.map ReadRange.obj).flatMap wireObj := by
  rw [wireReadObjs, List.flatMap_map]
  exact List.flatMap_congr fun r _ => (wireObj_readRange r).symm

/-- The READ request is a frame of headers. -/
theorem wireRead_eq_wireHeaders (c : Cfg) (src dst : Half) (aseq : BitVec 4) (tseq : BitVec 6) (rs : List ReadRange) :
    wireRead c src dst aseq tseq rs =
      wireHeaders c
        { len := BitVec.ofNat 8 (5 + (wireReadData c aseq tseq rs).length), ctrl := c.buildDlCtrl, dest := dst,
          src := src }
        { fin := true, fir := true, seq := tseq } (readAh c aseq) (rs.map ReadRange.obj) := by
  rw [wireHeaders, ← wireReadObjs_eq, List.append_assoc, List.append_assoc, ← List.append_assoc (wireTh _)]
  rfl

theorem wireRecord_readRange (r : ReadRange) : wireRecord r.obj =
    [r.group, r.var, 0x00, 0x12, r.start, 0x00, 0x00, 0x00, r.stop, 0x00, 0x00, 0x00] := by
  have hbyte (b : Byte) : wireLe (b.setWidth 32) 4 = [b, 0x00, 0x00, 0x00] := wireLe_byte b 3
  simp only [wireRecord, ReadRange.obj, ReadRange.header, hbyte]
  rfl

/-- Byte k of the j-th of strings of n bytes each is byte n·j + k of the whole. -/
theorem getElem?_flatMap_of_length {α : Type} {g : α → List Byte} {n : Nat} (hg : ∀ a, (g a).length = n)
    {l : List α} {j k : Nat} {a : α} (ha : l[j]? = some a) (hk : k < n) : (l.flatMap g)[n * j + k]? = (g a)[k]? := by
  induction l generalizing j with
  | nil => cases ha
  | cons x l ih =>
    cases j with
    | zero =>
      cases ha
      rw [List.flatMap_cons, Nat.mul_zero, Nat.zero_add, List.getElem?_append_left (by rw [hg]; exact hk)]
    | succ j =>
      rw [List.flatMap_cons, List.getElem?_append_right (by rw [hg, Nat.mul_succ]; omega), hg, Nat.mul_succ,
        show n * j + n + k - n = n * j + k by omega]
      exact ih ha

theorem eq_of_buildReadRequest_ok {src dst : Half} {aseq : BitVec 4} {tseq : BitVec 6} {rs : List ReadRange}
    (h : buildReadRequest c src dst aseq tseq rs = .ok f) : f = frameEncode c (wireRead c src dst aseq tseq rs) := by
  rw [buildReadRequest_eq] at h
  split_ifs at h
  exact (Except.ok.inj h).symm

/-- A successful BUILD_READ has output the request that the builder made of its ranges. -/
theorem buildRead_of_exec {rs : List ReadRange} (hin : s.inputIs (wireRanges rs)) (h : exec .buildRead s = .next t)
    (he : t.err = 0) : ∃ f, buildReadRequest s.cfg s.dl.src s.dl.dest s.ah.seq s.th.seq rs = .ok f ∧
      t = (s.setOutput f).succeed := by
  obtain ⟨u, hu, rfl⟩ := body_ok_of_exec h he
  obtain ⟨str, hstr, -, f, hbuild, -, rfl⟩ := body_buildRead_ok.1 hu
  obtain rfl := inputIs_unique hin hstr
  rw [rangesOf_wireRanges] at hbuild
  exact ⟨f, hbuild, rfl⟩

/-- Settles O47: the request is a frame of headers, whose objects are the ranges. -/
theorem parseFrameReadsWhatBuildReadWrote : Obligations.ParseFrameReadsWhatBuildReadWrote := by
  intro s t s' rs hc hin h he hfed
  obtain ⟨f, hbuild, rfl⟩ := buildRead_of_exec hin h he
  have hlen := buildReadRequest_length_le hbuild
  obtain rfl := eq_of_buildReadRequest_ok hbuild
  have hin' := inputIs_of_fedFrom (hlen.trans_lt (by decide)) hfed
  have hcfg : s'.cfg = s.cfg := hfed.1
  rw [List.nil_append, List.append_nil, ← hcfg, wireRead_eq_wireHeaders] at hin'
  have hcanon : ∀ o ∈ rs.map ReadRange.obj, canonicalObj s'.cfg o :=
    List.forall_mem_map.2 fun r _ => canonicalObj_readRange s'.cfg r
  obtain ⟨t', ht', hout, hread, heq⟩ :=
    parseFrameReadsEveryFrame s' _ _ _ _ (hcfg ▸ hc) hcanon (fun _ => rfl) hin'
  rw [wireRecords_length, List.length_map] at hout hread
  refine ⟨t', ht', congrArg State.err heq, congrArg (·.dl.src) heq, congrArg (·.dl.dest) heq,
    congrArg (·.ah.seq) heq, congrArg (·.th.seq) heq, (congrArg (·.ah.fc) heq).trans (congrArg Cfg.fcRead hcfg),
    ?count, ?outLen, fun j r hr k hk => ?record⟩
  case count => rw [congrArg State.objCount heq, List.length_map]
  case outLen => rw [← hout, BitVec.ofNat_toNat, BitVec.setWidth_eq]
  case record =>
    obtain ⟨hj, -⟩ := List.getElem?_eq_some_iff.1 hr
    have hobj : (rs.map ReadRange.obj)[j]? = some r.obj := by rw [List.getElem?_map, hr]; rfl
    rw [hread, if_pos (by omega), getElem?_flatMap_of_length wireRecord_length hobj hk, wireRecord_readRange]

end Sys2Proof.Machine
end

section
/-! PROOFS. How commands end in error (60_exceptions.md): errors are precise (R140), every command whose input is
written completes with a produced code (R127, R128), a qualifier outside the table in use (R134), and PARSE_FRAME's CRC
and block errors before any other (R142). -/

namespace Sys2Proof.Machine

variable {s t u : State} {i : Instr} {c : Cfg} {e : CmdError}

/-! ### Errors are precise -/

/-- No command's pseudocode writes the information words; only an error does (R140). -/
theorem errInfo_of_body_ok (h : body i s = .ok u) : u.errInfo0 = s.errInfo0 ∧ u.errInfo1 = s.errInfo1 := by
  cases i with
  | crc16 => obtain ⟨_, -, rfl⟩ := body_crc16_ok.1 h; exact ⟨rfl, rfl⟩
  | addCrc => obtain ⟨_, -, -, rfl⟩ := body_addCrc_ok.1 h; exact ⟨rfl, rfl⟩
  | stripCrc => obtain ⟨_, -, _, -, -, rfl⟩ := body_stripCrc_ok.1 h; exact ⟨rfl, rfl⟩
  | packDl => obtain ⟨-, rfl⟩ := body_packDl_ok.1 h; exact ⟨rfl, rfl⟩
  | packTh => obtain ⟨-, rfl⟩ := body_packTh_ok.1 h; exact ⟨rfl, rfl⟩
  | packAh => obtain ⟨-, rfl⟩ := body_packAh_ok.1 h; exact ⟨rfl, rfl⟩
  | packOh => obtain ⟨_, -, -, rfl⟩ := body_packOh_ok.1 h; exact ⟨rfl, rfl⟩
  | unpackDl => obtain ⟨_, -, -, _, _, -, rfl⟩ := body_unpackDl_ok.1 h; exact ⟨rfl, rfl⟩
  | unpackTh => obtain ⟨_, -, -, _, _, -, rfl⟩ := body_unpackTh_ok.1 h; exact ⟨rfl, rfl⟩
  | unpackAh => obtain ⟨_, -, -, _, _, -, rfl⟩ := body_unpackAh_ok.1 h; exact ⟨rfl, rfl⟩
  | unpackOh => obtain ⟨_, -, -, _, _, -, rfl⟩ := body_unpackOh_ok.1 h; exact ⟨rfl, rfl⟩
  | rangeLen => obtain ⟨_, _, -, rfl⟩ := body_rangeLen_ok.1 h; exact ⟨rfl, rfl⟩
  | buildRead => obtain ⟨_, -, -, _, -, -, rfl⟩ := body_buildRead_ok.1 h; exact ⟨rfl, rfl⟩
  | parseFrame => obtain ⟨_, -, _, -, -, rfl⟩ := body_parseFrame_ok.1 h; exact ⟨rfl, rfl⟩

/-- Settles O34: a success writes no information word, and an error discards every other write. -/
theorem errorsArePrecise : Obligations.ErrorsArePrecise := by
  intro i s t h
  obtain ⟨u, hu, rfl⟩ | ⟨e, -, rfl⟩ := exec_next h
  · have hinfo := errInfo_of_body_ok hu
    exact ⟨fun hne => absurd rfl hne, fun _ => hinfo⟩
  · exact ⟨fun _ => rfl, fun h0 => absurd h0 e.code_ne_zero⟩

/-! ### Every command completes -/

/-- A stop that completes the command, with one of the codes 1 to 7: neither a fault of the model nor ILLEGAL_COMMAND,
which is the dispatch's alone (R128, R136). -/
def Stop.Completes : Stop → Prop
  | .raise e => e.code.toNat ≤ 7
  | .fault _ => False

/-- An error about a command's operands has one of the codes 1 to 7. -/
theorem CmdError.ofContent.completes (h : e.ofContent) : Stop.Completes (.raise e) := by
  cases e with
  | illegalCommand => exact h.elim
  | checksumMismatch | truncatedHeader | frameTooShort | badStartBytes | truncatedBlock | unsupportedQualifier
  | programmerError => simp [Stop.Completes, CmdError.code]

theorem raises_completes {α : Type} {x : Except CmdError α} (hx : FailsOnly CmdError.ofContent x) :
    FailsOnly Stop.Completes (raises x) := hx.raises fun _ he => he.completes

theorem programmerError_completes (p : ProgError) : Stop.Completes (.raise (.programmerError p)) := Nat.le_refl 7

theorem emitOut_completes (s : State) (out : List Byte) : FailsOnly Stop.Completes (s.emitOut out) := by
  refine failsOnly_iff.2 fun r hr => ?_
  obtain ⟨-, rfl⟩ := State.emitOut_eq_error.1 hr
  exact programmerError_completes _

/-- `CheckIn` of a written input can only find it too long (40_crc.md R78). -/
theorem checkIn_completes (h : s.inputWritten) : FailsOnly Stop.Completes s.checkIn := by
  refine failsOnly_iff.2 fun r hr => ?_
  obtain ⟨-, rfl⟩ | ⟨-, j, hj, hnone, -⟩ := State.checkIn_eq_error.1 hr
  · exact programmerError_completes _
  · have hsome := h j hj
    rw [hnone] at hsome
    cases hsome

/-- Every stop completes the command where each stop of `CheckIn` does. -/
theorem StopsFor.completes {r : Stop} (hc : FailsOnly Stop.Completes s.checkIn) (h : StopsFor i s r) :
    r.Completes := by
  cases h with
  | input hr => exact failsOnly_iff.1 hc r hr
  | offset | overflow => exact programmerError_completes _
  | content e he => exact he.completes

/-- A command that reads no input has nothing to fault on. -/
theorem body_completes_of_not_readsIn (hi : readsIn i = false) : FailsOnly Stop.Completes (body i s) := by
  cases i with
  | packDl | packTh | packAh => exact emitOut_completes ..
  | packOh => exact (raises_completes (encOh_failsOnly ..)).bind fun _ _ => emitOut_completes ..
  | rangeLen => exact (raises_completes (rangeLenAt_failsOnly ..)).bind fun _ _ => .ok _
  | crc16 | addCrc | stripCrc | unpackDl | unpackTh | unpackAh | unpackOh | buildRead | parseFrame => cases hi

theorem body_completes (h : readsIn i = true → s.inputWritten) : FailsOnly Stop.Completes (body i s) := by
  cases hi : readsIn i with
  | false => exact body_completes_of_not_readsIn hi
  | true =>
    exact failsOnly_iff.2 fun r hr =>
      (failsOnly_iff.1 (body_stopsFor i s) r hr).completes (checkIn_completes (h hi))

/-- Settles O35: the pseudocode runs to its end or raises an error of the codes 1 to 7. -/
theorem everyCommandCompletes : Obligations.EveryCommandCompletes := by
  intro i s h
  have hstops := failsOnly_iff.1 (body_completes h)
  match hb : body i s with
  | .ok u => exact ⟨_, exec_of_body_ok hb, rfl, rfl, rfl, Nat.zero_le 7⟩
  | .error (.raise e) => exact ⟨_, exec_of_body_raise hb, rfl, rfl, rfl, hstops _ hb⟩
  | .error (.fault f) => exact (hstops _ hb).elim

/-! ### A qualifier outside the table -/

/-- The decoder looks the qualifier up before it asks for the range field's bytes (41_header_codec.md R99). -/
theorem decOh_unknown_qualifier {g v q : Byte} (hq : rangeLen c q = none) (pre r : List Byte) :
    decOh c (pre ++ g :: v :: q :: r) pre.length = .error (.unsupportedQualifier pre.length q) := by
  have hneed : need (pre ++ g :: v :: q :: r) pre.length 3 .object = .ok () := by
    rw [need_eq_ok, length_append_sub]
    exact Nat.le_add_left 3 r.length
  have hqual : byteAt (pre ++ g :: v :: q :: r) (pre.length + 2) = q := byteAt_append pre (g :: v :: q :: r) 2
  rw [decOh, hneed, ok_bind, hqual, rangeLenAt_eq_error.2 ⟨hq, rfl⟩, error_bind]

/-- Settles O26: every user of the table looks the qualifier up at its header's offset. -/
theorem unknownQualifierRaises : Obligations.UnknownQualifierRaises := by
  intro s
  refine ⟨fun hq => ⟨exec_packOh_error (e := .unsupportedQualifier 0 _) ?packOh, exec_rangeLen_of_none hq⟩,
    fun g v q r hq => ⟨fun p hin ho => ?unpackOh, fun dl th ah objs hobjs hin => ?parseFrame⟩⟩
  case packOh => rw [encOh, rangeLenAt_eq_error.2 ⟨hq, rfl⟩, error_bind]
  case unpackOh =>
    have hdec := decOh_unknown_qualifier (g := g) (v := v) hq p r
    rw [← ho] at hdec
    rw [exec_of_decode_error (dec := decOh s.cfg) rfl hin (inOff_le_append ho _) hdec, ← BitVec.ofNat_toNat]
    rfl
  case parseFrame =>
    exact exec_parseFrame_object_error hobjs hin (Nat.le_add_left 1 _) (decOh_unknown_qualifier hq _ r)

/-! ### CRC and block errors first -/

section
variable {blk rest : List Byte} {lo hi : Byte} {k : Nat}

/-- Stripping stops at a full block whose CRC differs, whatever follows (40_crc.md R84). -/
theorem stripAndVerify_bad_block (h16 : blk.length = 16) (hbad : crc16 c blk ≠ hi ++ lo) :
    stripAndVerify c (blk ++ ([lo, hi] ++ rest)) k = .error (.checksumMismatch k (crc16 c blk) (hi ++ lo)) :=
  (stripAndVerify_append_block c blk rest lo hi k h16).trans (by rw [verifyBlock_bad hbad, error_bind])

theorem stripAndVerify_bad_short (h1 : 1 ≤ blk.length) (h15 : blk.length ≤ 15) (hbad : crc16 c blk ≠ hi ++ lo) :
    stripAndVerify c (blk ++ [lo, hi]) k = .error (.checksumMismatch k (crc16 c blk) (hi ++ lo)) :=
  (stripAndVerify_short c blk lo hi k h1 h15).trans (verifyBlock_bad hbad)

end

/-- Under SEPARATE the first 10 bytes are stripped as block 0, and the rest from block 1 on (42_frame.md R113). -/
theorem frameDecode_separate_append {front : List Byte} (hsep : c.hdrBlock = .separate) (h10 : front.length = 10)
    (rest : List Byte) : frameDecode c (front ++ rest) =
      stripAndVerify c front 0 >>= fun h => stripAndVerify c rest 1 >>= fun d => .ok (h ++ d) := by
  rw [frameDecode, hsep]
  dsimp only
  rw [if_neg (by rw [List.length_append]; omega), List.take_left' h10, List.drop_left' h10]

/-- Under SEPARATE, after a good header block and k good full data blocks, decoding stops as stripping the rest from
block k + 1 on does. -/
theorem frameDecode_separate_data_error {hdr good rest : List Byte} {k : Nat} (hsep : c.hdrBlock = .separate)
    (h8 : hdr.length = 8) (hgood : good.length = 16 * k) (h : stripAndVerify c rest (k + 1) = .error e) :
    frameDecode c (addChecksums c hdr ++ addChecksums c good ++ rest) = .error e := by
  have h10 : (addChecksums c hdr).length = 10 := by rw [addChecksums_length, h8]
  rw [List.append_assoc, frameDecode_separate_append hsep h10, stripAndVerify_addChecksums, ok_bind,
    stripAndVerify_addChecksums_append c good rest k 1 hgood, Nat.add_comm, h]
  rfl

/-- PARSE_FRAME takes the CRCs off before it looks at the content (42_frame.md R119). -/
theorem exec_parseFrame_of_frameDecode_error {f : List Byte} (hin : s.inputIs f)
    (h : frameDecode s.cfg f = .error e) : exec .parseFrame s = .next (s.raiseError e) :=
  exec_parseFrame_raises hin (by rw [parseFrame, h, error_bind])

/-- Settles O50: the frame's decoding fails, in the header block or in the first bad block after it. -/
theorem parseFrameChecksCrcsFirst : Obligations.ParseFrameChecksCrcsFirst := by
  intro s
  refine ⟨fun f e hflat hin h => ?flat, fun hdr rest lo hi hsep h8 hin hbad => ?header,
    fun hdr good k hsep h8 hgood => ?data⟩
  case flat => exact exec_parseFrame_of_frameDecode_error hin (by rw [frameDecode, hflat]; exact h)
  case header =>
    refine exec_parseFrame_of_frameDecode_error (e := .checksumMismatch 0 _ _) hin ?_
    have h10 : (hdr ++ [lo, hi]).length = 10 := by rw [List.length_append, h8]; rfl
    rw [frameDecode_separate_append hsep h10, stripAndVerify_bad_short (by omega) (by omega) hbad, error_bind]
  case data =>
    intro front
    have hreport {rest : List Byte} {e : CmdError} (hin : s.inputIs (front ++ rest))
        (h : stripAndVerify s.cfg rest (k + 1) = .error e) : exec .parseFrame s = .next (s.raiseError e) :=
      exec_parseFrame_of_frameDecode_error hin (frameDecode_separate_data_error hsep h8 hgood h)
    refine ⟨fun blk rest lo hi h16 hin hbad => ?_, fun blk lo hi h1 h15 hin hbad => ?_, fun tail h1 h2 hin => ?_⟩
    · rw [List.append_assoc, List.append_assoc] at hin
      exact hreport hin (stripAndVerify_bad_block h16 hbad)
    · rw [List.append_assoc] at hin
      exact hreport hin (stripAndVerify_bad_short h1 h15 hbad)
    · exact hreport hin (stripAndVerify_tail s.cfg (k + 1) h1 h2)

end Sys2Proof.Machine
end

section
/-! PROOFS. Reset (70_reset_and_hazards.md R150 to R152). The reset event gives the engine's fields the values they have in
the state after reset, so the two agree on every register and on both buffers. -/

namespace Sys2Proof.Machine

/-- The reset value of every register of R22's table is 0. -/
theorem regWord_reset (r : Reg) : State.reset.regWord r = 0 :=
  have hall : ∀ r ∈ Reg.all, State.reset.regWord r = 0 := by decide
  hall r r.mem_all

/-- A register's word is made of engine fields only, all of which the reset event resets (70_reset_and_hazards.md R150). -/
theorem regWord_resetEvent (s : State) (r : Reg) : s.resetEvent.regWord r = 0 :=
  have hreset : s.resetEvent.regWord r = State.reset.regWord r := by cases r <;> rfl
  hreset.trans (regWord_reset r)

/-- An empty buffer has no byte written (10_state.md R29, R30). -/
theorem Memory.read_of_eq_nil {m : Memory} (h : m = []) (j : Nat) : m.read j = none := by
  rw [h, Memory.read]

/-- Settles O57: the scheduled reset is the reset event of the state with the schedule moved on. -/
theorem resetEventClearsTheEngine : Obligations.ResetEventClearsTheEngine := by
  intro s rest henv
  let s' : State := { s with env := rest }
  have hstep : step s = .next s'.resetEvent := step_of_scheduled henv
  exact ⟨s'.resetEvent, hstep, regWord_resetEvent s', s'.resetEvent_pend, s'.resetEvent_busy, s'.resetEvent_done,
    Memory.read_of_eq_nil s'.resetEvent_inBuf, Memory.read_of_eq_nil s'.resetEvent_outBuf, s'.resetEvent_cfg,
    s'.resetEvent_env, s'.resetEvent_host, s'.resetEvent_polling⟩

/-- Settles O58: the reset values are 0, PEND is idle and both buffers are empty. -/
theorem stateAfterReset : Obligations.StateAfterReset :=
  ⟨regWord_reset, rfl, Memory.read_of_eq_nil rfl, Memory.read_of_eq_nil rfl⟩

/-- Settles O39: the default configuration is legal, no command is pending and no poll is due, so the clauses about the busy
interval are vacuous, and OUT_LEN = 0 leaves no byte of OUT to be written. -/
theorem resetStateSatisfiesInv : Obligations.ResetStateSatisfiesInv where
  cfgLegal := by decide
  busyIffPending := rfl
  busyPolls hb := by cases hb
  pollsByConfig hp := by cases hp
  busyClears hb := by cases hb
  errProduced := Nat.zero_le _
  rlenLegal := rfl
  consumedBound := Nat.zero_le _
  inputInside := State.reset_buffers_inside.1
  outputInside := State.reset_buffers_inside.2
  outLenBound := Nat.zero_le _
  outputWritten j hj := absurd hj j.not_lt_zero

end Sys2Proof.Machine
end
